-- ==== Sys2Proof/Word.lean ====
section
/-!
DEFINITION. The words of the block: bytes, 32-bit register words, Blob indices, requester ids, bit sequences
(`00_scope.md` R15: bit 0 of a word is its least significant bit; index 0 of a sequence is first in time and first on the wire).
-/

namespace Sys2Proof

/-- A byte, a value 0..255 (R15). -/
abbrev Byte := BitVec 8

/-- A word of the Host register file (R69). -/
abbrev Word := BitVec 32

/-- A Blob index as the ports carry it (R43, R102: 16 bits). -/
abbrev Index := BitVec 16

/-- A requester id of the pool's acquire port (R104: 8 bits); id 0 is the pipeline (R6). -/
abbrev ReqId := BitVec 8

/-- A bit sequence, first bit first in time (R15). -/
abbrev Bits := List Bool

end Sys2Proof
end

