-- ==== Sys2Proof/Config.lean ====
section
/-!
DEFINITION. What an implementation fixes (the build parameters of `00_scope.md` R6), the constants of the frame layout, and
the free values of `93_implementation_defined.md` (opaque constants without a body: no proof can see what they are).
-/

namespace Sys2Proof

/-- The build parameters of R6. They are fixed when the hardware is elaborated: no operation writes them, reset included.
The machine's state carries them (`Machine.State.build`), so that every statement can speak of all their values (log entry 3). -/
structure Build where
  /-- `POOL_SIZE` (N): number of Blobs, 1..65535. -/
  poolSize : Nat
  /-- `BLOB_CAP` (C): capacity of each Blob in bytes, 0..65535. -/
  blobCap : Nat
  /-- `QUEUE_CAP` (Q): number of RawPacket slots, 1..255. -/
  queueCap : Nat
  /-- `ALIGN_SAMPLES`: a frame spans a multiple of this many samples, 1..65535. -/
  alignSamples : Nat
  /-- `REQ_IDS`: number of requester ids at the acquire port, 1..256. -/
  reqIds : Nat
  deriving DecidableEq, Repr

/-- The defaults of R6. -/
def Build.default : Build :=
  { poolSize := 64, blobCap := 10000, queueCap := 4, alignSamples := 128, reqIds := 4 }

/-- The legal ranges of R6. -/
abbrev Build.legal (b : Build) : Prop :=
  (1 ≤ b.poolSize ∧ b.poolSize ≤ 65535) ∧ b.blobCap ≤ 65535 ∧ (1 ≤ b.queueCap ∧ b.queueCap ≤ 255) ∧
    (1 ≤ b.alignSamples ∧ b.alignSamples ≤ 65535) ∧ (1 ≤ b.reqIds ∧ b.reqIds ≤ 256)

/-- `MAX_PAYLOAD`: the largest payload the LENGTH field can state (R6). -/
def Config.maxPayload : Nat := 65535

/-- `RAW_MAX`: the largest RawPacket in bytes, 4 + MAX_PAYLOAD + 4 (R6). -/
def Config.rawMax : Nat := 65543

/-- `FRAME_VERSION`, the VER field of every frame of this layout (R93). -/
def Config.frameVersion : BitVec 4 := 1

/-- The value of the `ID` register (R47). -/
def Config.idValue : Word := 0x47580001

/-- The bytes whose bits are `DEFAULT_ACCESS_CODE` (R131). PRESUMED by the spec itself: general knowledge G1 (log entry 8). -/
def Config.defaultAccessCodeBytes : List Byte := [0xAC, 0xDD, 0xA4, 0xE2, 0xF2, 0x8C, 0x20, 0xFC]

/-- Free value U2: the byte a `BLOB.RD` outside the specified case returns, one fresh draw per read (log entry 6). -/
opaque Config.freeByte : Nat → Byte

/-- Free value U4: the length a `BLOB.LEN` of an index that names no Blob returns, one fresh draw per read (log entry 6). -/
opaque Config.freeLength : Nat → BitVec 16

/-- Free values U1 and U3: what a byte of the BLOB memory holds before any Blob copy has written it (log entry 5). -/
opaque Config.blobPowerOn : Nat → Byte

end Sys2Proof
end

