-- ==== Sys2Proof/Syntax.lean ====
section
/-!
DEFINITION. The operations of the block, one constructor per row of `spec/opcode_table.json` (`00_scope.md` R9,
`30_encoding.md` R112), and the eight agents that take steps (R10).
-/

namespace Sys2Proof

/-- The agents of R10. Five stand outside the block; `enc`, `sync` and `pipe` are inside it, and `enc` has no step of its own. -/
inductive Agent where
  /-- HOST: the Host registers, reset, the closing of the queue and the pool. -/
  | host
  /-- APP_TX: the application as message source. -/
  | appTx
  /-- MOD: the external modulator. -/
  | mod
  /-- DEMOD: the external demodulator, or with `ext_sink` = 1 the external correlator/sink. -/
  | demod
  /-- APP_RX: the application as consumer. -/
  | appRx
  /-- ENC: the encoder; it moves only inside `TX.PULL`. -/
  | enc
  /-- SYNC: the Sync unit. -/
  | sync
  /-- PIPE: the decoder pipeline. -/
  | pipe
  deriving DecidableEq, Repr

/-- The 23 operations (R9, R112). The `len` operand of `TX.MSG` and the `cnt` operand of `Q.ENQ` are the lengths of the byte
sequences carried; the operand of `RX.BIT` is its bit `a[0]`. -/
inductive Instr where
  /-- `NOP` (R268). -/
  | nop
  /-- `CFG.WR addr, data` (R261). -/
  | cfgWr (addr : Byte) (data : Word)
  /-- `CFG.RD addr` (R263). -/
  | cfgRd (addr : Byte)
  /-- `SYS.RESET` (R262). -/
  | sysReset
  /-- `TX.MSG len, payload` (R160). -/
  | txMsg (payload : List Byte)
  /-- `TX.CTRL` (R161). -/
  | txCtrl
  /-- `TX.CLOSE` (R162). -/
  | txClose
  /-- `TX.PULL cap` (R163). -/
  | txPull (cap : BitVec 24)
  /-- `RX.BIT b` (R182). -/
  | rxBit (b : Bool)
  /-- `SYNC.PUSH` (R186). -/
  | syncPush
  /-- `Q.ENQ length, cnt, bytes` (R202). -/
  | qEnq (length : BitVec 24) (bytes : List Byte)
  /-- `Q.DEQ` (R203). -/
  | qDeq
  /-- `Q.CLOSE` (R204). -/
  | qClose
  /-- `POOL.ACQ r` (R216). -/
  | poolAcq (r : ReqId)
  /-- `POOL.ACQNB r` (R217). -/
  | poolAcqnb (r : ReqId)
  /-- `POOL.REL idx` (R218). -/
  | poolRel (idx : Index)
  /-- `POOL.CLOSE` (R219). -/
  | poolClose
  /-- `BLOB.RD idx, off` (R226). -/
  | blobRd (idx : Index) (off : BitVec 16)
  /-- `BLOB.LEN idx` (R227). -/
  | blobLen (idx : Index)
  /-- `PIPE.FETCH` (R241). -/
  | pipeFetch
  /-- `PIPE.ACQUIRE` (R242). -/
  | pipeAcquire
  /-- `PIPE.EMIT` (R245). -/
  | pipeEmit
  /-- `RX.TAKE` (R249). -/
  | rxTake
  deriving DecidableEq, Repr

end Sys2Proof
end

