-- ==== Sys2Proof/WellFormed.lean ====
section
/-!
DEFINITION. Which operations a transaction record can hold: the payload of `TX.MSG` has at most 65535 bytes (R101, R160), the
RawPacket of `Q.ENQ` at most `RAW_MAX` (R127, R202). Every other operand is bounded by the width of its field.
-/

namespace Sys2Proof

/-- The operands fit the record formats of R111 and the limits of R101 and R127. -/
def Instr.wellFormed : Instr → Bool
  | .nop => true
  | .cfgWr _ _ => true
  | .cfgRd _ => true
  | .sysReset => true
  | .txMsg payload => decide (payload.length ≤ Config.maxPayload)
  | .txCtrl => true
  | .txClose => true
  | .txPull _ => true
  | .rxBit _ => true
  | .syncPush => true
  | .qEnq _ bytes => decide (bytes.length ≤ Config.rawMax)
  | .qDeq => true
  | .qClose => true
  | .poolAcq _ => true
  | .poolAcqnb _ => true
  | .poolRel _ => true
  | .poolClose => true
  | .blobRd _ _ => true
  | .blobLen _ => true
  | .pipeFetch => true
  | .pipeAcquire => true
  | .pipeEmit => true
  | .rxTake => true

end Sys2Proof
end

