-- ==== Sys2Proof/Decode.lean ====
section
/-!
DEFINITION. Transaction records (`30_encoding.md` R110 to R112, R127): the decoder, total on any byte sequence and rejecting
by name, then the encoder written from the same table, then the reading of an opcode-table word.
-/

namespace Sys2Proof

/-- Why a byte sequence encodes no operation (R127). -/
inductive DecodeError where
  /-- No byte is left. -/
  | noBytes
  /-- The opcode byte is not in the table of R112. -/
  | noSuchOpcode (op : Byte)
  /-- The record ends before its format's last byte (R111). -/
  | truncated
  /-- `RX.BIT` with `a[7:1]` ≠ 0. -/
  | bitOperandReserved (a : Byte)
  /-- `Q.ENQ` with `cnt` > `RAW_MAX`. -/
  | packetTooLong (cnt : BitVec 24)
  deriving DecidableEq, Repr

/-- What a decoder answers: the operation and the bytes after its record (R110: records follow one another). -/
abbrev Decoded := Except DecodeError (Instr × List Byte)

/-- An 8-bit operand. -/
def read8 : List Byte → Except DecodeError (Byte × List Byte)
  | a :: rest => .ok (a, rest)
  | _ => .error .truncated

/-- A 16-bit big-endian operand (R67). -/
def read16 : List Byte → Except DecodeError (BitVec 16 × List Byte)
  | a :: b :: rest => .ok (a ++ b, rest)
  | _ => .error .truncated

/-- A 24-bit big-endian operand (R67). -/
def read24 : List Byte → Except DecodeError (BitVec 24 × List Byte)
  | a :: b :: c :: rest => .ok (a ++ b ++ c, rest)
  | _ => .error .truncated

/-- A 32-bit big-endian operand (R67). -/
def read32 : List Byte → Except DecodeError (Word × List Byte)
  | a :: b :: c :: d :: rest => .ok (a ++ b ++ c ++ d, rest)
  | _ => .error .truncated

/-- The `k` data bytes of a TM or TQ record, first byte first. -/
def readData (k : Nat) (bs : List Byte) : Except DecodeError (List Byte × List Byte) :=
  if k ≤ bs.length then .ok (bs.take k, bs.drop k) else .error .truncated

/-- Format TA (R111). -/
def readTA (f : Byte → Instr) (bs : List Byte) : Decoded := do
  let (a, rest) ← read8 bs
  .ok (f a, rest)

/-- Format TA of `RX.BIT`: the bit stands in `a[0]`, `a[7:1]` must be 0 (R112, R127). -/
def readBitRecord (bs : List Byte) : Decoded := do
  let (a, rest) ← read8 bs
  if a = 0 then .ok (.rxBit false, rest)
  else if a = 1 then .ok (.rxBit true, rest)
  else .error (.bitOperandReserved a)

/-- Format TI (R111). -/
def readTI (f : BitVec 16 → Instr) (bs : List Byte) : Decoded := do
  let (idx, rest) ← read16 bs
  .ok (f idx, rest)

/-- Format TC (R111). -/
def readTC (f : BitVec 24 → Instr) (bs : List Byte) : Decoded := do
  let (cap, rest) ← read24 bs
  .ok (f cap, rest)

/-- Format TB (R111). -/
def readTB (f : BitVec 16 → BitVec 16 → Instr) (bs : List Byte) : Decoded := do
  let (idx, rest) ← read16 bs
  let (off, rest) ← read16 rest
  .ok (f idx off, rest)

/-- Format TR (R111). -/
def readTR (f : Byte → Word → Instr) (bs : List Byte) : Decoded := do
  let (addr, rest) ← read8 bs
  let (data, rest) ← read32 rest
  .ok (f addr data, rest)

/-- Format TM (R111). -/
def readTM (f : List Byte → Instr) (bs : List Byte) : Decoded := do
  let (len, rest) ← read16 bs
  let (payload, rest) ← readData len.toNat rest
  .ok (f payload, rest)

/-- Format TQ (R111); `cnt` is at most `RAW_MAX` (R127). -/
def readTQ (f : BitVec 24 → List Byte → Instr) (bs : List Byte) : Decoded := do
  let (length, rest) ← read24 bs
  let (cnt, rest) ← read24 rest
  if Config.rawMax < cnt.toNat then .error (.packetTooLong cnt)
  else do
    let (bytes, rest) ← readData cnt.toNat rest
    .ok (f length bytes, rest)

/-- The operands of the record whose opcode byte is `op` (the opcode map R112). -/
def decodeBody (op : Byte) (rest : List Byte) : Decoded :=
  match op.toNat with
  | 0x00 => .ok (.nop, rest)
  | 0x01 => readTR .cfgWr rest
  | 0x02 => readTA .cfgRd rest
  | 0x0F => .ok (.sysReset, rest)
  | 0x10 => readTM .txMsg rest
  | 0x11 => .ok (.txCtrl, rest)
  | 0x12 => .ok (.txClose, rest)
  | 0x13 => readTC .txPull rest
  | 0x20 => readBitRecord rest
  | 0x22 => .ok (.syncPush, rest)
  | 0x30 => readTQ .qEnq rest
  | 0x31 => .ok (.qDeq, rest)
  | 0x32 => .ok (.qClose, rest)
  | 0x40 => readTA .poolAcq rest
  | 0x41 => readTA .poolAcqnb rest
  | 0x42 => readTI .poolRel rest
  | 0x43 => .ok (.poolClose, rest)
  | 0x44 => readTB .blobRd rest
  | 0x45 => readTI .blobLen rest
  | 0x50 => .ok (.pipeFetch, rest)
  | 0x51 => .ok (.pipeAcquire, rest)
  | 0x52 => .ok (.pipeEmit, rest)
  | 0x60 => .ok (.rxTake, rest)
  | _ => .error (.noSuchOpcode op)

/-- The decoder: the first record of a byte sequence and the bytes after it (R110, R111). -/
def decode : List Byte → Decoded
  | [] => .error .noBytes
  | op :: rest => decodeBody op rest

/-- A whole trace of records, one after another with nothing between them (R110). `fuel` bounds the number of records;
`bytes.length` is always enough, since a record has at least one byte. -/
def decodeTrace : Nat → List Byte → Except DecodeError (List Instr)
  | _, [] => .ok []
  | 0, _ :: _ => .error .truncated
  | fuel + 1, b :: bs => do
    let (i, rest) ← decode (b :: bs)
    let is ← decodeTrace fuel rest
    .ok (i :: is)

/-- The two bytes of a 16-bit operand, most significant first (`be16` of R16, R67). -/
def be16 (v : BitVec 16) : List Byte := [v.extractLsb' 8 8, v.extractLsb' 0 8]

/-- The three bytes of a 24-bit operand, most significant first (R67). -/
def be24 (v : BitVec 24) : List Byte := [v.extractLsb' 16 8, v.extractLsb' 8 8, v.extractLsb' 0 8]

/-- The four bytes of a 32-bit operand, most significant first (`be32` of R16, R67). -/
def be32 (v : Word) : List Byte := [v.extractLsb' 24 8, v.extractLsb' 16 8, v.extractLsb' 8 8, v.extractLsb' 0 8]

/-- The transaction record of a well-formed operation (R111, R112). -/
def encode : Instr → List Byte
  | .nop => [0x00]
  | .cfgWr addr data => 0x01 :: addr :: be32 data
  | .cfgRd addr => [0x02, addr]
  | .sysReset => [0x0F]
  | .txMsg payload => 0x10 :: be16 (BitVec.ofNat 16 payload.length) ++ payload
  | .txCtrl => [0x11]
  | .txClose => [0x12]
  | .txPull cap => 0x13 :: be24 cap
  | .rxBit b => [0x20, if b then 1 else 0]
  | .syncPush => [0x22]
  | .qEnq length bytes => 0x30 :: be24 length ++ be24 (BitVec.ofNat 24 bytes.length) ++ bytes
  | .qDeq => [0x31]
  | .qClose => [0x32]
  | .poolAcq r => [0x40, r]
  | .poolAcqnb r => [0x41, r]
  | .poolRel idx => 0x42 :: be16 idx
  | .poolClose => [0x43]
  | .blobRd idx off => 0x44 :: be16 idx ++ be16 off
  | .blobLen idx => 0x45 :: be16 idx
  | .pipeFetch => [0x50]
  | .pipeAcquire => [0x51]
  | .pipeEmit => [0x52]
  | .rxTake => [0x60]

/-- The number of bytes of an operation's record (R111). -/
def Instr.recordBytes : Instr → Nat
  | .nop => 1
  | .cfgWr _ _ => 6
  | .cfgRd _ => 2
  | .sysReset => 1
  | .txMsg payload => 3 + payload.length
  | .txCtrl => 1
  | .txClose => 1
  | .txPull _ => 4
  | .rxBit _ => 2
  | .syncPush => 1
  | .qEnq _ bytes => 7 + bytes.length
  | .qDeq => 1
  | .qClose => 1
  | .poolAcq _ => 2
  | .poolAcqnb _ => 2
  | .poolRel _ => 3
  | .poolClose => 1
  | .blobRd _ _ => 5
  | .blobLen _ => 3
  | .pipeFetch => 1
  | .pipeAcquire => 1
  | .pipeEmit => 1
  | .rxTake => 1

/-- How many bytes a record has, read from its opcode byte and, for TM and TQ, from the field that follows (R111, last
sentence); 1 for a byte that is no opcode. Bytes that are not there count as 0. -/
def recordLength (bs : List Byte) : Nat :=
  let byte (k : Nat) : Nat := ((bs[k]?).getD 0).toNat
  match byte 0 with
  | 0x01 => 6
  | 0x02 => 2
  | 0x10 => 3 + (256 * byte 1 + byte 2)
  | 0x13 => 4
  | 0x20 => 2
  | 0x30 => 7 + (65536 * byte 4 + 256 * byte 5 + byte 6)
  | 0x40 => 2
  | 0x41 => 2
  | 0x42 => 3
  | 0x44 => 5
  | 0x45 => 3
  | _ => 1

/-- The lowest `k` bytes of `w`, least significant byte first: the opcode table numbers bit 0 as the least significant bit of
record byte 0, and record byte 1 is bits 15..8. -/
def lowBytes : Nat → Nat → List Byte
  | 0, _ => []
  | k + 1, w => BitVec.ofNat 8 (w % 256) :: lowBytes k (w / 256)

/-- The record an opcode-table word of `nbits` bits stands for: its bytes, then as many zero bytes as the record still needs. -/
def tableBytes (nbits w : Nat) : List Byte :=
  let given := lowBytes (nbits / 8) w
  given ++ List.replicate (recordLength given - given.length) 0

/-- The operation the decoder reads from an opcode-table word. -/
def decodeTableWord (nbits w : Nat) : Option Instr :=
  match decode (tableBytes nbits w) with
  | .ok (i, _) => some i
  | .error _ => none

end Sys2Proof
end

