-- ==== Sys2Proof/Machine/State.lean ====
section
/-!
DEFINITION. The state of the block as plain data: every element of `10_state.md` (rules R20 to R46) with the width the spec
gives it, the environment's script and outstanding requests, the reset state of R56, and the reasons a step can stop.
-/

namespace Sys2Proof.Machine

/-! ## Types of the state elements -/

/-- `mode` (R20). -/
inductive Mode where
  | setup
  | run
  | failed
  deriving DecidableEq, Repr

/-- `sync_state` (R34). -/
inductive SyncState where
  | search
  | header
  | payload
  | push
  | stopped
  deriving DecidableEq, Repr

/-- `pipe_state` (R41). -/
inductive PipeState where
  | waitPacket
  | decoded
  | waitBlob
  | filled
  | stopped
  deriving DecidableEq, Repr

/-- `pipe_stop` (R41): why the pipeline stopped. -/
inductive PipeStop where
  | notStopped
  | queueClosed
  | poolClosed
  deriving DecidableEq, Repr

/-- The failure reasons of `decode` (R147). -/
inductive DecodeFailure where
  | tooShort
  | badVersion
  | lengthInconsistent
  | crcMismatch
  deriving DecidableEq, Repr

/-- A result of the PacketCodec's `decode` (R145), the type of `pipe_res` (R42). -/
inductive DecodeResult where
  | ok (payload : List Byte)
  | fail (reason : DecodeFailure)
  deriving DecidableEq, Repr

/-- A source item (R101). -/
inductive SrcItem where
  | payload (bytes : List Byte)
  | control
  deriving DecidableEq, Repr

/-- A RawPacket (R37, R100). -/
structure RawPacket where
  bytes : List Byte
  length : BitVec 24
  deriving DecidableEq, Repr

/-- A Message to the application (R43, R102). -/
inductive Message where
  | ok (idx : Index) (len : BitVec 16)
  | fail
  deriving DecidableEq, Repr

/-- The completion codes (R113). -/
inductive Code where
  | done
  | empty
  | sourceClosed
  | queueClosed
  | poolClosed
  | defect
  deriving DecidableEq, Repr

/-- The values an operation returns beside its completion code (R72, R104). -/
inductive Result where
  /-- The completion code only. -/
  | none
  /-- `CFG.RD`: one register word. -/
  | word (v : Word)
  /-- `POOL.ACQ`, `POOL.ACQNB`: a Blob index. -/
  | index (idx : Index)
  /-- `TX.PULL`: the count `k`, the `done` bit and the data bytes. -/
  | pull (k : BitVec 24) (finished : Bool) (data : List Byte)
  /-- `Q.DEQ`: a RawPacket. -/
  | packet (rp : RawPacket)
  /-- `BLOB.RD`: one byte. -/
  | byte (v : Byte)
  /-- `BLOB.LEN`: one length. -/
  | length (v : BitVec 16)
  /-- `RX.TAKE`: a Message. -/
  | message (m : Message)
  deriving DecidableEq, Repr

/-- One completion returned to an issuer (R113). `requester` names the requester id for completions on the `acq` port, where
one release or close can complete the acquires of other requesters (`complete_for` of R220). -/
structure Reply where
  agent : Agent
  requester : Option ReqId
  code : Code
  result : Result
  deriving DecidableEq, Repr

/-! ## The state, unit by unit -/

/-- The configuration (R23 to R26): written in mode SETUP, frozen by the START commit. -/
structure Cfg where
  /-- `ac_chars` (R23): at most 65 character codes. -/
  acChars : List Byte
  /-- `ac` (R24): the committed access code, first transmitted bit first. -/
  ac : Bits
  /-- `n` (R24): its length. -/
  n : BitVec 7
  /-- `acv` (R24): its value, first transmitted bit most significant of the n. -/
  acv : BitVec 64
  /-- `mask` (R24): 2^n - 1. -/
  mask : BitVec 64
  /-- `threshold` (R25). -/
  threshold : BitVec 7
  /-- `use_wo` (R26). -/
  useWo : Bool
  /-- `ext_sink` (R26). -/
  extSink : Bool
  /-- `sps` (R26): samples per symbol. -/
  sps : BitVec 8
  /-- `bps` (R26): bits per symbol. -/
  bps : BitVec 4
  deriving DecidableEq, Repr

/-- The transmit half (R27 to R31). `enc_state` is not stored (R30); `resid` is `ENC_BUF[enc_rd .. enc_end-1]` (R28, R61). -/
structure Tx where
  /-- `src_q` (R27): offered items, oldest first. -/
  srcQ : List SrcItem
  /-- `src_closed` (R27). -/
  srcClosed : Bool
  /-- `ENC_BUF` (R61): the bytes written since power-on, from address 0. -/
  encBuf : List Byte
  /-- `enc_rd` (R28, R61): the read cursor. -/
  encRd : Nat
  /-- `enc_end` (R28, R61): the end mark. -/
  encEnd : Nat
  /-- `woff` (R29): the whitener offset. -/
  woff : BitVec 4
  /-- `enc_closed` (R30). -/
  encClosed : Bool
  /-- `cnt_tx` (R31). -/
  cntTx : BitVec 32
  deriving DecidableEq, Repr

/-- The Sync unit (R34 to R36). -/
structure Sync where
  /-- `sync_state` (R34). -/
  state : SyncState
  /-- `sr` (R35): the correlator shift register, newest bit in bit 0. -/
  sr : BitVec 64
  /-- `fill` (R35): bits shifted in since Search was last entered, saturating at 64. -/
  fill : BitVec 7
  /-- `hdr` (R36). -/
  hdr : BitVec 32
  /-- `hcnt` (R36). -/
  hcnt : BitVec 6
  /-- `cap` (R36), the contents of `SYNC_BUF` (R62). -/
  cap : List Byte
  /-- `need` (R36). -/
  need : BitVec 17
  /-- `acc` (R36). -/
  acc : Byte
  /-- `bcnt` (R36). -/
  bcnt : BitVec 4
  deriving DecidableEq, Repr

/-- BoundedQueue (R37). -/
structure Queue where
  /-- `q`: oldest packet first. -/
  q : List RawPacket
  /-- `q_closed`. -/
  closed : Bool
  deriving DecidableEq, Repr

/-- A byte memory: (address, byte) pairs, addresses strictly rising. An address that is not listed holds no written byte. -/
abbrev Memory := List Host.Cell

/-- The registers of one Blob (R38); its bytes stand in the BLOB memory. -/
structure Blob where
  /-- `inuse[i]`. -/
  inuse : Bool
  /-- `blen[i]`. -/
  len : BitVec 16
  deriving DecidableEq, Repr

/-- BlobPool (R38, R39). -/
structure Pool where
  /-- `bdata` (R38, R64): the BLOB memory. -/
  mem : Memory
  /-- `inuse[i]` and `blen[i]` for i = 0..N-1. -/
  blobs : List Blob
  /-- `free` (R39): the FIFO free list, front first. -/
  free : List Index
  /-- `waiters` (R39): the suspended acquirers, oldest first. -/
  waiters : List ReqId
  /-- `pool_closed` (R39). -/
  closed : Bool
  deriving DecidableEq, Repr

/-- PacketDecoderPipeline (R41 to R44). -/
structure Pipe where
  /-- `pipe_state` (R41). -/
  state : PipeState
  /-- `pipe_stop` (R41). -/
  stop : PipeStop
  /-- `pipe_res` (R42). -/
  res : DecodeResult
  /-- `pipe_blob` (R42): index and length of the Blob held in state Filled. -/
  blob : Index × BitVec 16
  /-- `out_msg` (R43). -/
  outMsg : Option Message
  /-- `dec_last` (R44). -/
  decLast : BitVec 3
  /-- `cnt_ok` (R44). -/
  cntOk : BitVec 32
  /-- `cnt_fail` (R44). -/
  cntFail : BitVec 32
  deriving DecidableEq, Repr

/-- The two working registers of the codec (R32, R56, U5): they hold any value between uses, every use initialises them first
and nothing reads them afterwards, so no operation of the model reads or writes them (log entry 9). -/
structure Work where
  /-- `crc`, the CRC accumulator (R136). -/
  crc : BitVec 32
  /-- `lfsr`, the whitening LFSR (R133). -/
  lfsr : BitVec 9
  deriving DecidableEq, Repr

/-- The internal steps, in the order the eager schedule takes them (R84). -/
inductive Internal where
  | syncPush
  | pipeFetch
  | pipeAcquire
  | pipeEmit
  deriving DecidableEq, Repr

/-- Which interleaving of R75 the environment chooses (U8). -/
inductive Schedule where
  /-- Only the script's choices step, internal steps among them: the script is the scheduler's oracle. -/
  | oracle
  /-- The eager schedule of R84. -/
  | eager
  deriving DecidableEq, Repr

/-- One choice of what happens next outside the block (R75, U8). -/
inductive Choice where
  /-- An agent presents consecutive records (the lines `AGENT: ...` of R120, each record encoded as R110 says). -/
  | present (agent : Agent) (bytes : List Byte)
  /-- The k-th oldest of the outstanding operations is attempted again (R45). -/
  | resume (k : Nat)
  deriving DecidableEq, Repr

/-- An operation an agent has issued that is not yet completed (R45, R76). -/
structure Request where
  agent : Agent
  instr : Instr
  deriving DecidableEq, Repr

/-- The environment, and the model's own fields: nothing of it is a register of the block (log entries 1, 2 and 6). -/
structure Env where
  /-- The schedule in force. -/
  schedule : Schedule
  /-- Where the next pass of the eager schedule over the internal steps goes on (R84). -/
  turn : Internal
  /-- What is still going to happen outside the block, in the order it is reached. -/
  script : List Choice
  /-- The blocked operations of the outside agents, oldest first. -/
  pending : List Request
  /-- The agent that issues the operation being attempted. -/
  agent : Agent
  /-- The operation being attempted was issued before and is attempted again (R45), so that nothing is presented at the pins now
  (log entries 2 and 19). -/
  again : Bool
  /-- The completions produced by the last operation, in order; none when it blocked. -/
  replies : List Reply
  /-- How many free values of U2 and U4 have been drawn. -/
  draws : Nat
  deriving DecidableEq, Repr

/-- The whole machine. -/
structure State where
  /-- The build parameters (R6); no operation writes them. -/
  build : Build
  /-- `mode` (R20). -/
  mode : Mode
  /-- `fault` (R21): the sticky fault bits. -/
  fault : BitVec 5
  /-- `fault_info` (R22). -/
  faultInfo : BitVec 32
  cfg : Cfg
  tx : Tx
  sync : Sync
  queue : Queue
  pool : Pool
  pipe : Pipe
  work : Work
  env : Env
  deriving DecidableEq, Repr

/-- Why the machine stops with a fault. The faults of `60_exceptions.md` are not among them: they are sticky bits of the
`fault` register, and the machine goes on after them (R311). -/
inductive Fault where
  /-- Raised by `POOL.REL` when it serves requester 0 while `pipe_res` is no `Ok`: R220 reads `Ok(p) <- pipe_res` and says
  nothing of another value. No state that keeps R215 (e) reaches it; `PIPE.ACQUIRE` and `POOL.ACQ 0` name it for a value of
  `pipe_res` in which they are not enabled. Safe: the model stops (log entry 7). -/
  | grantWithoutPayload
  deriving DecidableEq, Repr

/-- Why the machine gives an operation no meaning: the cases R127, R335 and U7 tell a model to refuse. Each is safe: it errs
toward unprovable. -/
inductive Refusal where
  /-- Raised only by an arm of `exec` whose instruction has no meaning yet. Safe. -/
  | notModelled (mnemonic : String)
  /-- Raised by a step whose next bytes encode no operation (R127). Safe. -/
  | badRecord (why : DecodeError)
  /-- Raised by `TX.MSG` with more than 65535 payload bytes and `Q.ENQ` with more than `RAW_MAX` bytes (R127). Safe. -/
  | illFormed
  /-- Raised by an operation from an agent other than its issuer in R112 (R127). Safe. -/
  | wrongAgent
  /-- Raised by an operation on a port where an operation of the agent is still outstanding (R335). Safe. -/
  | portBusy
  /-- Raised by an acquire with a requester id of `REQ_IDS` or more, or with id 0 from outside the block (R127). Safe. -/
  | badRequester
  /-- Raised by an acquire under a requester id that is already in `waiters` (R216 c, R335). Safe. -/
  | acquireOutstanding
  /-- Raised by `Q.ENQ` issued while `ext_sink` = 0: the `enq` pins are disconnected (R127, R200). Safe. -/
  | enqPortAbsent
  deriving DecidableEq, Repr

/-- What a meaning answers. -/
abbrev StepOutcome := Host.Outcome State Fault Refusal

/-! ## Reset (R56, R320, R321) -/

/-- The reset values of the configuration. -/
def Cfg.reset : Cfg :=
  { acChars := [], ac := [], n := 0, acv := 0, mask := 0, threshold := 12, useWo := false, extSink := false, sps := 2, bps := 1 }

/-- The reset values of the transmit half. R56 gives `enc_rd` = `enc_end` = 0 and says nothing of the bytes of `ENC_BUF`, so they are an
argument (DESIGN CHOICE, log entry 20: none is written at power-on, and `SYS.RESET` leaves them as they are). -/
def Tx.reset (encBuf : List Byte) : Tx :=
  { srcQ := [], srcClosed := false, encBuf := encBuf, encRd := 0, encEnd := 0, woff := 0, encClosed := false, cntTx := 0 }

/-- The reset values of the Sync unit. -/
def Sync.reset : Sync :=
  { state := .search, sr := 0, fill := 0, hdr := 0, hcnt := 0, cap := [], need := 0, acc := 0, bcnt := 0 }

/-- The reset values of BoundedQueue. -/
def Queue.reset : Queue := { q := [], closed := false }

/-- The reset values of BlobPool with N Blobs; the BLOB memory is not cleared (R262), so it is an argument. -/
def Pool.reset (N : Nat) (mem : Memory) : Pool :=
  { mem := mem, blobs := List.replicate N { inuse := false, len := 0 }, free := (List.range N).map (BitVec.ofNat 16),
    waiters := [], closed := false }

/-- The reset values of the pipeline; `pipe_res` and `pipe_blob` have none (R42), so they are arguments. -/
def Pipe.reset (res : DecodeResult) (blob : Index × BitVec 16) : Pipe :=
  { state := .waitPacket, stop := .notStopped, res := res, blob := blob, outMsg := none, decLast := 0, cntOk := 0, cntFail := 0 }

/-- The environment before anything has been presented. -/
def Env.reset : Env :=
  { schedule := .oracle, turn := .syncPush, script := [], pending := [], agent := .host, again := false, replies := [],
    draws := 0 }

/-- The machine right after power-on reset with the build parameters `b`: `ENC_BUF` and the BLOB memory with no byte written (log entries
5 and 20). The values of `pipe_res`, `pipe_blob`, `crc` and `lfsr`, which
the spec leaves unspecified, are those log entry 4 names. -/
def State.resetWith (b : Build) : State :=
  { build := b, mode := .setup, fault := 0, faultInfo := 0, cfg := Cfg.reset, tx := Tx.reset [], sync := Sync.reset,
    queue := Queue.reset, pool := Pool.reset b.poolSize [], pipe := Pipe.reset (.ok []) (0, 0),
    work := { crc := 0, lfsr := 0 }, env := Env.reset }

/-- The machine right after reset, built with the default parameters of R6. -/
def State.reset : State := State.resetWith Build.default

end Sys2Proof.Machine
end

