-- ==== Sys2Proof/Machine/Codec.lean ====
section
/-!
DEFINITION. PacketCodec (`40_codec.md`): access-code validation, whitener, CRC-32, alignment padding, the frame encoder and the
packet decoder. Every function here is pure (R144).
-/

namespace Sys2Proof.Machine

/-! ## Bits and bytes (R15, R16, R66) -/

/-- The bits of a byte, most significant first. -/
def byteBits (b : Byte) : Bits :=
  [b.getLsbD 7, b.getLsbD 6, b.getLsbD 5, b.getLsbD 4, b.getLsbD 3, b.getLsbD 2, b.getLsbD 1, b.getLsbD 0]

/-- `bits(B)` of R16. -/
def bits (bs : List Byte) : Bits := bs.flatMap byteBits

/-- The byte of eight bits, first bit most significant. -/
def packByte (b7 b6 b5 b4 b3 b2 b1 b0 : Bool) : Byte :=
  BitVec.ofBool b7 ++ BitVec.ofBool b6 ++ BitVec.ofBool b5 ++ BitVec.ofBool b4 ++
    BitVec.ofBool b3 ++ BitVec.ofBool b2 ++ BitVec.ofBool b1 ++ BitVec.ofBool b0

/-- `pack(S)` of R16, the inverse of `bits` on sequences whose length is a multiple of 8. -/
def pack : Bits → List Byte
  | b7 :: b6 :: b5 :: b4 :: b3 :: b2 :: b1 :: b0 :: rest => packByte b7 b6 b5 b4 b3 b2 b1 b0 :: pack rest
  | _ => []

/-! ## The access code (R130, R131, R24) -/

/-- `DEFAULT_ACCESS_CODE` (R131). -/
def defaultAccessCode : Bits := bits Config.defaultAccessCodeBytes

/-- The bit a character of the access-code string stands for: 0x30 is "0", 0x31 is "1" (R130). -/
def charBit (c : Byte) : Option Bool :=
  if c = 0x30 then some false else if c = 0x31 then some true else none

/-- The bits of a string of `0` and `1` characters; `none` if it holds another character. -/
def charBits : List Byte → Option Bits
  | [] => some []
  | c :: cs =>
    match charBit c, charBits cs with
    | some b, some bs => some (b :: bs)
    | _, _ => none

/-- `validate_access_code` (R130); `none` is `InvalidAccessCode`. -/
def validateAccessCode (chars : List Byte) : Option Bits :=
  if chars = [] then some defaultAccessCode
  else if 64 < chars.length then none
  else charBits chars

/-- `acv` (R24, R266): the sum of `code[i] * 2^(n-1-i)`, first bit most significant. -/
def accessCodeValue (code : Bits) : BitVec 64 :=
  code.foldl (fun v b => (v <<< 1) ||| (BitVec.ofBool b).setWidth 64) 0

/-- `mask` (R24, R266): 2^n - 1. -/
def accessCodeMask (n : Nat) : BitVec 64 := BitVec.ofNat 64 (2 ^ n - 1)

/-! ## The whitener (R132 to R134) -/

/-- One shift of the 9-bit LFSR (R132). -/
def lfsrShift (s : BitVec 9) : BitVec 9 :=
  (s >>> 1) ||| ((BitVec.ofBool (s.getLsbD 0 ^^ s.getLsbD 5)).setWidth 9 <<< 8)

/-- The eight shifts between one byte of the sequence and the next (R132). -/
def lfsrNext (s : BitVec 9) : BitVec 9 :=
  lfsrShift (lfsrShift (lfsrShift (lfsrShift (lfsrShift (lfsrShift (lfsrShift (lfsrShift s)))))))

/-- The LFSR state before byte `k` (R132, R133). -/
def lfsrAt : Nat → BitVec 9
  | 0 => 0x1FF
  | k + 1 => lfsrNext (lfsrAt k)

/-- The whitening sequence `pn[k]` (R132). PRESUMED by the spec itself: general knowledge G3 (log entry 8). -/
def pn (k : Nat) : Byte := (lfsrAt k).setWidth 8

/-- Whiten from a given LFSR state on: one sequence byte per payload byte (R133, last paragraph). -/
def whitenFrom (s : BitVec 9) : List Byte → List Byte
  | [] => []
  | x :: xs => (x ^^^ s.setWidth 8) :: whitenFrom (lfsrNext s) xs

/-- `whiten(p, off)` (R134). -/
def whiten (p : List Byte) (off : BitVec 4) : List Byte := whitenFrom (lfsrAt off.toNat) p

/-! ## The CRC (R135 to R137) -/

/-- One of the eight shifts of R136. -/
def crcShift (c : BitVec 32) : BitVec 32 :=
  if c.getLsbD 0 then (c >>> 1) ^^^ 0xEDB88320 else c >>> 1

/-- The accumulator after one more byte (R136). -/
def crcByte (c : BitVec 32) (b : Byte) : BitVec 32 :=
  crcShift (crcShift (crcShift (crcShift (crcShift (crcShift (crcShift (crcShift (c ^^^ b.setWidth 32))))))))

/-- `crc32(b)` (R136). PRESUMED by the spec itself: general knowledge G2 (log entry 8). -/
def crc32 (b : List Byte) : BitVec 32 := b.foldl crcByte 0xFFFFFFFF ^^^ 0xFFFFFFFF

/-! ## Padding (R140, R141) -/

/-- The alignment modulus `M` in bits (R140). -/
def alignModulus (alignSamples sps bps : Nat) : Nat :=
  Nat.lcm 8 (bps * alignSamples / Nat.gcd alignSamples sps)

/-- `core` (R91, R141): the frame bits before the padding, for a code of `n` bits and a payload of `L` bytes. -/
def coreBits (n L : Nat) : Nat := n + 64 + 8 * L

/-- The number `P` of padding bits (R141). -/
def padBits (M core : Nat) : Nat := (M - core % M) % M

/-- The padding: bit j is j mod 2 (R91, R141). -/
def padding (P : Nat) : Bits := (List.range P).map fun j => j % 2 == 1

/-! ## The frame encoder (R90 to R95, R143) -/

/-- The four header bytes (R93, R94). -/
def headerBytes (off : BitVec 4) (P L : Nat) : List Byte :=
  [Config.frameVersion ++ off, BitVec.ofNat 8 (min 255 (P / 8)), BitVec.ofNat 8 (L / 256), BitVec.ofNat 8 L]

/-- `encode(payload, sps, bps, ac, off)` (R143), with the build parameter `ALIGN_SAMPLES` as first argument. -/
def encodeFrame (alignSamples : Nat) (payload : List Byte) (sps bps : Nat) (ac : Bits) (off : BitVec 4) : List Byte :=
  let P := padBits (alignModulus alignSamples sps bps) (coreBits ac.length payload.length)
  let H := headerBytes off P payload.length
  let c := crc32 (H ++ payload)
  pack (ac ++ bits H ++ bits (whiten payload off) ++ bits (be32 c) ++ padding P)

/-- The largest modulus of any legal `sps` and `bps` (R140: `sps` = 1 gives the largest for each `bps`). -/
def maxModulus (alignSamples : Nat) : Nat :=
  (List.range 8).foldl (fun m k => max m (alignModulus alignSamples 1 (k + 1))) 0

/-- `FRAME_MAX` (R6): 8 + 4 + 65535 + 4 bytes and less than M/8 bytes of padding. -/
def Build.frameMax (b : Build) : Nat := 65551 + (maxModulus b.alignSamples / 8 - 1)

/-! ## The packet decoder (R145 to R147) -/

/-- `from_be16` (R16). -/
def fromBe16 (hi lo : Byte) : BitVec 16 := hi ++ lo

/-- `from_be32` (R16) of the first four bytes of a sequence; bytes that are not there count as 0. -/
def fromBe32 (bs : List Byte) : BitVec 32 :=
  (bs.getD 0 0) ++ (bs.getD 1 0) ++ (bs.getD 2 0) ++ (bs.getD 3 0)

/-- `decode(raw, length_hint)` (R146): the four tests in their order. -/
def decodePacket (raw : List Byte) (hint : BitVec 24) : DecodeResult :=
  let m := min raw.length hint.toNat
  if m < 8 then .fail .tooShort
  else
    let H := raw.take 4
    let h0 := H.getD 0 0
    if h0.extractLsb' 4 4 ≠ Config.frameVersion then .fail .badVersion
    else
      let off : BitVec 4 := h0.extractLsb' 0 4
      let L := (fromBe16 (H.getD 2 0) (H.getD 3 0)).toNat
      if m < 8 + L then .fail .lengthInconsistent
      else
        let p := whiten ((raw.drop 4).take L) off
        if crc32 (H ++ p) ≠ fromBe32 (raw.drop (4 + L)) then .fail .crcMismatch
        else .ok p

/-- The code a decode result leaves in `dec_last` (R147, R241). -/
def DecodeResult.code : DecodeResult → BitVec 3
  | .ok _ => 1
  | .fail .tooShort => 2
  | .fail .badVersion => 3
  | .fail .lengthInconsistent => 4
  | .fail .crcMismatch => 5

/-! ## The correlator's match test (R180) -/

/-- `popcount` (R16). -/
def popcount (v : BitVec 64) : Nat := (List.range 64).countP v.getLsbD

/-- `ac_match(sr)` (R180). -/
def acMatch (c : Cfg) (sr : BitVec 64) : Bool :=
  decide (popcount ((sr ^^^ c.acv) &&& c.mask) ≤ c.threshold.toNat)

end Sys2Proof.Machine
end

