-- ==== Sys2Proof/Machine/Memory.lean ====
section
/-!
DEFINITION. The BLOB memory (`20_memory.md` R60, R64): a list of written bytes in one canonical form, addresses strictly
rising. An unlisted address has never been written since power-on, and what it holds is unspecified (R38, U1, U3): reading it
gives no value here, and `Ops.lean` turns that into the free value `Config.blobPowerOn`.
-/

namespace Sys2Proof.Machine

/-- The memory addresses are strictly rising and so distinct: the canonical form. -/
def Memory.wf : Memory → Bool
  | [] => true
  | [_] => true
  | (a, _) :: (b, y) :: m => decide (a < b) && Memory.wf ((b, y) :: m)

/-- The byte last written at an address, if any was. -/
def Memory.read : Memory → Nat → Option Byte
  | [], _ => none
  | (b, y) :: m, a => if a = b then some y else Memory.read m a

/-- Write one byte. -/
def Memory.write : Memory → Nat → Byte → Memory
  | [], a, x => [(a, x)]
  | (b, y) :: m, a, x =>
    if a < b then (a, x) :: (b, y) :: m
    else if a = b then (a, x) :: m
    else (b, y) :: Memory.write m a x

/-- Write consecutive bytes from an address on, first byte at the lowest address. -/
def Memory.writeBytes (m : Memory) (a : Nat) : List Byte → Memory
  | [] => m
  | x :: xs => Memory.writeBytes (Memory.write m a x) (a + 1) xs

/-- The address of byte `off` of Blob `idx` (R60: blob 0..N-1, byte 0..C-1; both are 16 bits wide at the `blob` port, R104). -/
def blobAddr (idx : Index) (off : Nat) : Nat := 65536 * idx.toNat + off

end Sys2Proof.Machine
end

