-- ==== Sys2Proof/Machine/Flags.lean ====
section
/-!
DEFINITION. Derived state and status flags (`10_state.md` R28, R30, R46, R50; `60_exceptions.md` R291), and the encodings of
the state names and completion codes.
-/

namespace Sys2Proof.Machine

/-- `resid` (R28, R61): the bytes of the current frame not yet pulled. -/
def Tx.resid (t : Tx) : List Byte := (t.encBuf.take t.encEnd).drop t.encRd

/-- The states of the encoder (R30). -/
inductive EncState where
  | idle
  | draining
  | closed
  deriving DecidableEq, Repr

/-- `enc_state` (R30). -/
def Tx.encState (t : Tx) : EncState :=
  if t.encClosed then .closed else if t.resid ≠ [] then .draining else .idle

/-- The encoding of `enc_state` (R30). -/
def EncState.code : EncState → BitVec 2
  | .idle => 0
  | .draining => 1
  | .closed => 2

/-- The encoding of `mode` (R20). -/
def Mode.code : Mode → BitVec 2
  | .setup => 0
  | .run => 1
  | .failed => 2

/-- The encoding of `sync_state` (R34). -/
def SyncState.code : SyncState → BitVec 3
  | .search => 0
  | .header => 1
  | .payload => 2
  | .push => 3
  | .stopped => 4

/-- The encoding of `pipe_state` (R41). -/
def PipeState.code : PipeState → BitVec 3
  | .waitPacket => 0
  | .decoded => 1
  | .waitBlob => 2
  | .filled => 3
  | .stopped => 4

/-- The encoding of `pipe_stop` (R41). -/
def PipeStop.code : PipeStop → BitVec 2
  | .notStopped => 0
  | .queueClosed => 1
  | .poolClosed => 2

/-- The numbers of the completion codes (R113). -/
def Code.number : Code → BitVec 8
  | .done => 0x00
  | .empty => 0x01
  | .sourceClosed => 0x02
  | .queueClosed => 0x03
  | .poolClosed => 0x04
  | .defect => 0x05

/-- A Message as the output port carries it (R102): tag, index, length; index and length are 0 for `Fail`. -/
def Message.port : Message → Bool × Index × BitVec 16
  | .ok idx len => (true, idx, len)
  | .fail => (false, 0, 0)

/-- `out_valid` (R46). -/
def Pipe.outValid (p : Pipe) : Bool := p.outMsg.isSome

/-- `fault_o` (R291): the OR of the five fault bits. -/
def State.faultO (s : State) : Bool :=
  s.fault.getLsbD 0 || s.fault.getLsbD 1 || s.fault.getLsbD 2 || s.fault.getLsbD 3 || s.fault.getLsbD 4

/-- The STATUS register (R50), from bit 31 down to bit 0. -/
def State.statusWord (s : State) : Word :=
  (0 : BitVec 16) ++ s.pipe.stop.code ++ BitVec.ofBool s.pipe.outValid ++ BitVec.ofBool s.pool.closed ++
    BitVec.ofBool s.queue.closed ++ BitVec.ofBool s.tx.srcClosed ++ s.pipe.state.code ++ s.sync.state.code ++
    s.tx.encState.code ++ s.mode.code

end Sys2Proof.Machine
end

