-- ==== Sys2Proof/Machine/Operands.lean ====
section
/-!
DEFINITION. What an operation's operands and issuer select: the issuer and port of each operation (`30_encoding.md` R104,
R112), the register an address names (`10_state.md` R40, R47 to R55), the Blob an index names, the enabling condition of each
operation, and the operations a model refuses (R127, R335).
-/

namespace Sys2Proof.Machine

/-! ## Issuers and ports -/

/-- The ports of R104; on the `acq` port each requester id is a flow of its own (R76). -/
inductive Port where
  | host
  | rst
  | msg
  | pull
  | bit
  | enq
  | qclose
  | pclose
  | acq (r : ReqId)
  | rel
  | blob
  | out
  deriving DecidableEq, Repr

/-- The port an operation uses (R104). `NOP` and the internal steps have none; nor has the pipeline's own acquire, requester 0. -/
def portOf : Instr → Option Port
  | .nop => none
  | .cfgWr _ _ => some .host
  | .cfgRd _ => some .host
  | .sysReset => some .rst
  | .txMsg _ => some .msg
  | .txCtrl => some .msg
  | .txClose => some .msg
  | .txPull _ => some .pull
  | .rxBit _ => some .bit
  | .syncPush => none
  | .qEnq _ _ => some .enq
  | .qDeq => none
  | .qClose => some .qclose
  | .poolAcq r => if r = 0 then none else some (.acq r)
  | .poolAcqnb r => some (.acq r)
  | .poolRel _ => some .rel
  | .poolClose => some .pclose
  | .blobRd _ _ => some .blob
  | .blobLen _ => some .blob
  | .pipeFetch => none
  | .pipeAcquire => none
  | .pipeEmit => none
  | .rxTake => some .out

/-- The issuer R112 names for an operation; where it names two (`Q.CLOSE`, `NOP`), the first. -/
def issuerOf : Instr → Agent
  | .nop => .host
  | .cfgWr _ _ => .host
  | .cfgRd _ => .host
  | .sysReset => .host
  | .txMsg _ => .appTx
  | .txCtrl => .appTx
  | .txClose => .appTx
  | .txPull _ => .mod
  | .rxBit _ => .demod
  | .syncPush => .sync
  | .qEnq _ _ => .demod
  | .qDeq => .pipe
  | .qClose => .host
  | .poolAcq r => if r = 0 then .pipe else .appRx
  | .poolAcqnb _ => .appRx
  | .poolRel _ => .appRx
  | .poolClose => .host
  | .blobRd _ _ => .appRx
  | .blobLen _ => .appRx
  | .pipeFetch => .pipe
  | .pipeAcquire => .pipe
  | .pipeEmit => .pipe
  | .rxTake => .appRx

/-- Whether an agent is an issuer of an operation (R112): any agent of `NOP`, HOST or DEMOD of `Q.CLOSE`, else the one R112 names. -/
def mayIssue (a : Agent) : Instr → Bool
  | .nop => true
  | .qClose => a == .host || a == .demod
  | i => a == issuerOf i

/-! ## Host registers -/

/-- The addresses of the configuration registers and of `AC_CHAR` and `AC_CLEAR`, which mode SETUP unlocks (R261, R264). -/
def lockedAddress (addr : Byte) : Bool :=
  addr == 0x01 || addr == 0x0B || addr == 0x0C || addr == 0x0D || addr == 0x06 || addr == 0x07

/-- The value of the register at an address (R40, R47 to R55); 0 for a write-only or reserved address (R126, R263). -/
def State.regRead (s : State) (addr : Byte) : Word :=
  match addr.toNat with
  | 0x00 => Config.idValue
  | 0x01 => (BitVec.ofBool s.cfg.extSink ++ BitVec.ofBool s.cfg.useWo).setWidth 32
  | 0x03 => s.statusWord
  | 0x04 => s.fault.setWidth 32
  | 0x05 => s.faultInfo
  | 0x08 => if s.mode = .run then s.cfg.n.setWidth 32 else BitVec.ofNat 32 s.cfg.acChars.length
  | 0x09 => if s.mode = .run then s.cfg.acv.extractLsb' 0 32 else 0
  | 0x0A => if s.mode = .run then s.cfg.acv.extractLsb' 32 32 else 0
  | 0x0B => s.cfg.threshold.setWidth 32
  | 0x0C => s.cfg.sps.setWidth 32
  | 0x0D => s.cfg.bps.setWidth 32
  | 0x0E => (BitVec.ofNat 16 s.build.poolSize).setWidth 32
  | 0x0F => (BitVec.ofNat 16 s.build.blobCap).setWidth 32
  | 0x10 => (BitVec.ofNat 16 s.build.queueCap).setWidth 32
  | 0x11 => (BitVec.ofNat 16 s.build.alignSamples).setWidth 32
  | 0x12 => s.tx.woff.setWidth 32
  | 0x13 => (BitVec.ofNat 24 s.tx.resid.length).setWidth 32
  | 0x14 => (BitVec.ofNat 8 s.queue.q.length).setWidth 32
  | 0x15 => (BitVec.ofNat 16 s.pool.free.length).setWidth 32
  | 0x16 => s.pipe.decLast.setWidth 32
  | 0x17 => s.tx.cntTx
  | 0x18 => s.pipe.cntOk
  | 0x19 => s.pipe.cntFail
  | _ => 0

/-- A write to a configuration register, `AC_CHAR` or `AC_CLEAR` in mode SETUP (R23, R48, R52, R54, R261): out-of-range values
and a 66th character are ignored. -/
def Cfg.write (c : Cfg) (addr : Byte) (data : Word) : Cfg :=
  match addr.toNat with
  | 0x01 => { c with useWo := data.getLsbD 0, extSink := data.getLsbD 1 }
  | 0x0B => if data.toNat ≤ 64 then { c with threshold := data.setWidth 7 } else c
  | 0x0C => if 1 ≤ data.toNat ∧ data.toNat ≤ 255 then { c with sps := data.setWidth 8 } else c
  | 0x0D => if 1 ≤ data.toNat ∧ data.toNat ≤ 8 then { c with bps := data.setWidth 4 } else c
  | 0x06 => if c.acChars.length < 65 then { c with acChars := c.acChars ++ [data.setWidth 8] } else c
  | 0x07 => { c with acChars := [] }
  | _ => c

/-! ## Blobs -/

/-- `inuse[idx]`; false for an index that names no Blob. -/
def Pool.inUse (p : Pool) (idx : Index) : Bool :=
  match p.blobs[idx.toNat]? with
  | some b => b.inuse
  | none => false

/-- `blen[idx]`; 0 for an index that names no Blob. -/
def Pool.blen (p : Pool) (idx : Index) : BitVec 16 :=
  match p.blobs[idx.toNat]? with
  | some b => b.len
  | none => 0

/-! ## Enabling conditions -/

/-- The first payload of a source and what stands behind it; the Control items before it are dropped (R163). -/
def takePayload : List SrcItem → Option (List Byte × List SrcItem)
  | [] => none
  | .payload p :: rest => some (p, rest)
  | .control :: rest => takePayload rest

/-- The pipeline holds a decoded payload for which it needs a Blob (R242). -/
def Pipe.wantsBlob (p : Pipe) : Bool :=
  match p.state, p.res with
  | .decoded, .ok _ => true
  | _, _ => false

/-- The pipeline holds a finished message (R245). -/
def Pipe.hasMessage (p : Pipe) : Bool :=
  match p.state, p.res with
  | .filled, _ => true
  | .decoded, .fail _ => true
  | _, _ => false

/-- The "Enabled when" of `PIPE.FETCH` (R241), and so of the `Q.DEQ` inside it (R203). -/
def State.canFetch (s : State) : Bool :=
  s.mode == .run && s.pipe.state == .waitPacket && (s.queue.q != [] || s.queue.closed)

/-- The "Enabled when" of every operation (the rules R160 to R268 and the table R267). A closed queue
ends the wait of every `Q.ENQ`, whatever `ext_sink` is by then (R12, C10). That one which was issued with `ext_sink` = 1 and blocked in
mode SETUP waits on an open queue while a later write has cleared `ext_sink` is the model's choice: the spec is silent on it
(DESIGN CHOICE, log entry 19). -/
def State.enabled (s : State) : Instr → Bool
  | .nop => true
  | .cfgWr _ _ => true
  | .cfgRd _ => true
  | .sysReset => true
  | .txMsg _ => s.mode == .run
  | .txCtrl => s.mode == .run
  | .txClose => true
  | .txPull _ =>
    s.mode == .run && (s.tx.encClosed || s.tx.resid != [] || (takePayload s.tx.srcQ).isSome || s.tx.srcClosed)
  | .rxBit _ => s.mode == .run && s.sync.state != .push
  | .syncPush =>
    s.mode == .run && s.sync.state == .push && (decide (s.queue.q.length < s.build.queueCap) || s.queue.closed)
  | .qEnq _ _ => s.mode == .run && (s.queue.closed || (s.cfg.extSink && decide (s.queue.q.length < s.build.queueCap)))
  | .qDeq => s.canFetch
  | .qClose => true
  | .poolAcq r => s.mode == .run && (if r = 0 then s.pipe.wantsBlob else !s.pool.waiters.contains r)
  | .poolAcqnb r => s.mode == .run && !s.pool.waiters.contains r
  | .poolRel _ => s.mode == .run
  | .poolClose => true
  | .blobRd _ _ => s.mode == .run
  | .blobLen _ => s.mode == .run
  | .pipeFetch => s.canFetch
  | .pipeAcquire => s.mode == .run && s.pipe.wantsBlob
  | .pipeEmit => s.mode == .run && s.pipe.outMsg.isNone && s.pipe.hasMessage
  | .rxTake => s.mode == .run && (s.pipe.outMsg.isSome || s.pipe.state == .stopped)

/-! ## Refused operations -/

/-- An operation is outstanding on the port `i` uses (R76, R335). One that is attempted again is presented no second time: it has been
withdrawn from the outstanding ones (`State.resumed`). -/
def State.portBusy (s : State) (i : Instr) : Bool :=
  (portOf i).isSome && s.env.pending.any fun rq => portOf rq.instr == portOf i

/-- What a requester id or the configuration makes unformable at the pins (R127, R200, R216 c, R335). R127 refuses a `Q.ENQ` "issued
while `ext_sink` = 0": one issued while `ext_sink` = 1 and attempted again later is not refused for it (DESIGN CHOICE, log entry 19). -/
def State.operandRefusal (s : State) : Instr → Option Refusal
  | .qEnq _ _ => if s.cfg.extSink || s.env.again then none else some .enqPortAbsent
  | .poolAcq r =>
    if s.build.reqIds ≤ r.toNat then some .badRequester
    else if r ≠ 0 ∧ s.pool.waiters.contains r then some .acquireOutstanding
    else none
  | .poolAcqnb r =>
    if r = 0 ∨ s.build.reqIds ≤ r.toNat then some .badRequester
    else if s.pool.waiters.contains r then some .acquireOutstanding
    else none
  | _ => none

/-- Why the model gives an operation, presented by the agent `s.env.agent`, no meaning (R127, R335, U7); `none` when it has one. -/
def State.refusal (s : State) (i : Instr) : Option Refusal :=
  if i.wellFormed = false then some .illFormed
  else if mayIssue s.env.agent i = false then some .wrongAgent
  else if s.portBusy i then some .portBusy
  else s.operandRefusal i

end Sys2Proof.Machine
end

