-- ==== Sys2Proof/Machine/Ops.lean ====
section
/-!
DEFINITION. The operations every meaning is built of: the unit setters, how an operation is attempted, blocks or completes
(`00_scope.md` R16, `10_state.md` R45), raising a fault (`60_exceptions.md` R290), the buffers of `20_memory.md`, the queue, the
grant, release and copy of a Blob (`44_pool.md` R220 to R222), the Sync unit's enqueue (R181), the START commit (R266) and reset
(R262).
-/

namespace Sys2Proof.Machine

/-! ## One unit of the state replaced -/

/-- `s` with another `mode`. -/
def State.setMode (s : State) (m : Mode) : State := { s with mode := m }
/-- `s` with other fault registers. -/
def State.setFault (s : State) (f : BitVec 5) (info : BitVec 32) : State := { s with fault := f, faultInfo := info }
/-- `s` with another configuration. -/
def State.setCfg (s : State) (c : Cfg) : State := { s with cfg := c }
/-- `s` with another transmit half. -/
def State.setTx (s : State) (t : Tx) : State := { s with tx := t }
/-- `s` with another Sync unit. -/
def State.setSync (s : State) (y : Sync) : State := { s with sync := y }
/-- `s` with another queue. -/
def State.setQueue (s : State) (q : Queue) : State := { s with queue := q }
/-- `s` with another pool. -/
def State.setPool (s : State) (p : Pool) : State := { s with pool := p }
/-- `s` with another pipeline. -/
def State.setPipe (s : State) (p : Pipe) : State := { s with pipe := p }
/-- `s` with another environment. -/
def State.setEnv (s : State) (e : Env) : State := { s with env := e }

/-! ## Attempting an operation -/

/-- A completion is returned (R16 `complete`, R113). -/
def State.reply (s : State) (r : Reply) : State := s.setEnv { s.env with replies := s.env.replies ++ [r] }

/-- The operation completes: its issuer gets the code and the result (R16 `complete(code, values)`). -/
def State.complete (s : State) (code : Code) (result : Result) : State :=
  s.reply { agent := s.env.agent, requester := none, code := code, result := result }

/-- The completion of an acquire of requester `r` on the `acq` port (R220 `complete_for`). -/
def State.completeFor (s : State) (r : ReqId) (code : Code) (result : Result) : State :=
  s.reply { agent := .appRx, requester := some r, code := code, result := result }

/-- The operation is taken up: nothing has been returned yet. -/
def State.accept (s : State) : State := s.setEnv { s.env with replies := [] }

/-- The operation blocks (R16 `block`, R45): the block's state is as it was and nothing is returned. An outside agent keeps its
request, which is then outstanding on its port; an internal step is not a request (its agent is always willing, R75). -/
def State.hold (s : State) (i : Instr) : State :=
  s.setEnv { s.env with
    pending := if portOf i = none then s.env.pending else s.env.pending ++ [{ agent := s.env.agent, instr := i }],
    replies := [] }

/-- Attempt an operation: refuse what the ports cannot form (R127, R335), block it while it is not enabled, else carry out its
effect in one atomic step (R73). -/
def attempt (i : Instr) (s : State) (effect : State → StepOutcome) : StepOutcome :=
  match s.refusal i with
  | some r => .refused r
  | none => if s.enabled i then effect s.accept else .next (s.hold i)

/-! ## Faults -/

/-- The fault numbers (R21, R280). -/
inductive FaultNumber where
  | invalidAccessCode
  | payloadTooLarge
  | doubleRelease
  | badBlobIndex
  | cfgLocked
  deriving DecidableEq, Repr

/-- The number of a fault: its bit in `fault`. -/
def FaultNumber.bit : FaultNumber → Nat
  | .invalidAccessCode => 0
  | .payloadTooLarge => 1
  | .doubleRelease => 2
  | .badBlobIndex => 3
  | .cfgLocked => 4

/-- `raise_fault(F, info)` (R290): the sticky bit is set, and the first fault since reset is captured. There is no return from
a fault (R315): only reset clears the bits. -/
def State.raiseFault (s : State) (F : FaultNumber) (info : BitVec 24) : State :=
  s.setFault (s.fault ||| BitVec.ofNat 5 (2 ^ F.bit))
    (if s.fault = 0 then BitVec.ofNat 8 F.bit ++ info else s.faultInfo)

/-! ## The frame buffer (R61) -/

/-- A frame load: bytes 0..len-1 of `ENC_BUF` are written, the cursor goes to 0 and the end mark to len. -/
def Tx.loadFrame (t : Tx) (frame : List Byte) : Tx :=
  { t with encBuf := frame ++ t.encBuf.drop frame.length, encRd := 0, encEnd := frame.length }

/-- A copy-out of `k` bytes adds `k` to the cursor. -/
def Tx.advance (t : Tx) (k : Nat) : Tx := { t with encRd := t.encRd + k }

/-- The frame of a payload taken from the source is built with the present offset and loaded; then the frame is counted and,
with rotation enabled, the offset advances (R163). -/
def State.frameMessage (s : State) (p : List Byte) (rest : List SrcItem) : State :=
  let frame := encodeFrame s.build.alignSamples p s.cfg.sps.toNat s.cfg.bps.toNat s.cfg.ac s.tx.woff
  s.setTx { (s.tx.loadFrame frame) with
    srcQ := rest
    cntTx := s.tx.cntTx + 1
    woff := if s.cfg.useWo then s.tx.woff + 1 else s.tx.woff }

/-- The last part of `TX.PULL` (R163): `k` = min(cap, len(resid)) bytes leave. -/
def State.pullBytes (s : State) (cap : BitVec 24) : State :=
  let k := min cap.toNat s.tx.resid.length
  (s.setTx (s.tx.advance k)).complete .done (.pull (BitVec.ofNat 24 k) false (s.tx.resid.take k))

/-! ## The queue (R201) -/

/-- Enqueue. -/
def Queue.enqueue (q : Queue) (rp : RawPacket) : Queue := { q with q := q.q ++ [rp] }

/-- Dequeue: the oldest packet and the queue without it. -/
def Queue.dequeue (q : Queue) : Option (RawPacket × Queue) :=
  match q.q with
  | [] => none
  | rp :: rest => some (rp, { q with q := rest })

/-! ## The pipeline's fetch -/

/-- The state change of an enabled `PIPE.FETCH` (R241): one packet is dequeued and decoded, or the closed and empty queue
stops the pipeline. -/
def State.fetchPacket (s : State) : State :=
  match s.queue.dequeue with
  | some (rp, q) =>
    let res := decodePacket rp.bytes rp.length
    (s.setQueue q).setPipe { s.pipe with decLast := res.code, res := res, state := .decoded }
  | none => s.setPipe { s.pipe with state := .stopped, stop := .queueClosed }

/-! ## The pool -/

/-- Write `inuse[idx]`. -/
def Pool.setInUse (p : Pool) (idx : Index) (v : Bool) : Pool :=
  { p with blobs := p.blobs.modify idx.toNat fun b => { b with inuse := v } }

/-- Write `blen[idx]`. -/
def Pool.setLen (p : Pool) (idx : Index) (v : BitVec 16) : Pool :=
  { p with blobs := p.blobs.modify idx.toNat fun b => { b with len := v } }

/-- The front of the free list leaves it and becomes in use (R216, R217, R242). -/
def Pool.takeFree (p : Pool) : Option (Index × Pool) :=
  match p.free with
  | [] => none
  | idx :: rest => some (idx, { p with free := rest }.setInUse idx true)

/-- `blob_copy(idx, p)` (R221): the payload is written from byte 0 on and `blen[idx]` becomes its length. -/
def Pool.blobCopy (pool : Pool) (idx : Index) (p : List Byte) : Pool :=
  { pool with mem := pool.mem.writeBytes (blobAddr idx 0) p }.setLen idx (BitVec.ofNat 16 p.length)

/-- The byte `bdata[idx][off]`; a byte no copy has written is unspecified (U1, U3). -/
def Pool.byteAt (p : Pool) (idx : Index) (off : Nat) : Byte :=
  (p.mem.read (blobAddr idx off)).getD (Config.blobPowerOn (blobAddr idx off))

/-- The pipeline's part of `grant(0, idx)` when the payload fits (R220): the copy, and state Filled. -/
def State.fillBlob (s : State) (idx : Index) (p : List Byte) : State :=
  (s.setPool (s.pool.blobCopy idx p)).setPipe
    { s.pipe with blob := (idx, BitVec.ofNat 16 p.length), state := .filled }

/-- `release_blob(idx)` (R222) with `waiters` = `ws`, and with it `grant` (R220) of the Blob to the oldest waiter. A too-long
payload of requester 0 raises `PAYLOAD_TOO_LARGE` and releases the Blob again, to the waiters behind it. `none`: requester 0 is
served while `pipe_res` is no `Ok`, which R220 gives no effect. -/
def State.releaseTo (idx : Index) : List ReqId → State → Option State
  | [], s =>
    let p := ({ s.pool with waiters := [] }.setLen idx 0).setInUse idx false
    some (s.setPool { p with free := p.free ++ [idx] })
  | r :: rs, s =>
    let s := s.setPool ({ s.pool with waiters := rs }.setLen idx 0)
    if r = 0 then
      match s.pipe.res with
      | .fail _ => none
      | .ok p =>
        if s.build.blobCap < p.length then
          (State.releaseTo idx rs (s.raiseFault .payloadTooLarge (BitVec.ofNat 24 p.length))).map
            fun s => s.setPipe { s.pipe with state := .waitPacket }
        else some (s.fillBlob idx p)
    else some (s.completeFor r .done (.index idx))

/-- `release_blob(idx)` (R222). -/
def State.releaseBlob (s : State) (idx : Index) : Option State := State.releaseTo idx s.pool.waiters s

/-- `grant(0, idx)` (R220) for the payload the pipeline holds. -/
def State.grantPipe (s : State) (idx : Index) (p : List Byte) : Option State :=
  if s.build.blobCap < p.length then
    ((s.raiseFault .payloadTooLarge (BitVec.ofNat 24 p.length)).releaseBlob idx).map
      fun s => s.setPipe { s.pipe with state := .waitPacket }
  else some (s.fillBlob idx p)

/-- The pipeline's blocking acquire (R242), for the payload it holds. -/
def State.pipeAcquireBlob (s : State) (p : List Byte) : Option State :=
  if s.pool.closed then some (s.setPipe { s.pipe with state := .stopped, stop := .poolClosed })
  else
    match s.pool.takeFree with
    | some (idx, pool) => (s.setPool pool).grantPipe idx p
    | none =>
      some ((s.setPool { s.pool with waiters := s.pool.waiters ++ [0] }).setPipe { s.pipe with state := .waitBlob })

/-- The completions of `POOL.CLOSE` (R219), oldest waiter first. -/
def State.wakeAll : List ReqId → State → State
  | [], s => s
  | r :: rs, s =>
    State.wakeAll rs
      (if r = 0 then s.setPipe { s.pipe with state := .stopped, stop := .poolClosed }
       else s.completeFor r .poolClosed (.index 0))

/-! ## The Sync unit -/

/-- `try_enqueue()` (R181). -/
def State.tryEnqueue (s : State) : State :=
  if s.queue.closed then s.setSync { s.sync with cap := [], state := .stopped }
  else if s.queue.q.length < s.build.queueCap then
    (s.setQueue (s.queue.enqueue { bytes := s.sync.cap, length := s.sync.need.setWidth 24 })).setSync
      { s.sync with cap := [], fill := 0, state := .search }
  else s.setSync { s.sync with state := .push }

/-! ## START and reset -/

/-- `start_commit()` (R266). -/
def State.startCommit (s : State) : State :=
  match validateAccessCode s.cfg.acChars with
  | some code =>
    (s.setCfg { s.cfg with
      ac := code, n := BitVec.ofNat 7 code.length, acv := accessCodeValue code, mask := accessCodeMask code.length }).setMode .run
  | none => (s.raiseFault .invalidAccessCode (BitVec.ofNat 24 s.cfg.acChars.length)).setMode .failed

/-- Reset of every state element (R262, R56). `bdata` is not cleared, nor are the bytes of `ENC_BUF`, of which the spec says nothing (DESIGN
CHOICE, log entry 20); `pipe_res`, `pipe_blob`, `crc` and `lfsr`, which have no
reset value, keep what they hold (U5); every pending operation is abandoned without a completion. The script, the schedule and
the draws are no state of the block. -/
def State.resetBlock (s : State) : State :=
  { State.resetWith s.build with
    tx := Tx.reset s.tx.encBuf
    pool := Pool.reset s.build.poolSize s.pool.mem
    pipe := Pipe.reset s.pipe.res s.pipe.blob
    work := s.work
    env := { s.env with pending := [] } }

end Sys2Proof.Machine
end

