-- ==== Sys2Proof/Machine/BoundedQueue.lean ====
section
/-!
DEFINITION. The BoundedQueue operations (`43_queue.md`): `Q.ENQ`, `Q.DEQ`, `Q.CLOSE`.
-/

namespace Sys2Proof.Machine

/-- `Q.ENQ length, cnt, bytes` (R202): a closed queue does not take the packet. -/
def execQEnq (length : BitVec 24) (bytes : List Byte) (s : State) : StepOutcome :=
  attempt (.qEnq length bytes) s fun s =>
    .next (if s.queue.closed then s.complete .queueClosed .none
      else (s.setQueue (s.queue.enqueue { bytes := bytes, length := length })).complete .done .none)

/-- `Q.DEQ` (R203): the oldest packet, or `QueueClosed` once the closed queue is empty. It is performed as part of `PIPE.FETCH` and never
on its own, so its record stands for that step: enabled when the step is, with the step's whole state change (log entry 10). -/
def execQDeq (s : State) : StepOutcome :=
  attempt .qDeq s fun s =>
    .next (match s.queue.dequeue with
      | some (rp, _) => s.fetchPacket.complete .done (.packet rp)
      | none => s.fetchPacket.complete .queueClosed .none)

/-- `Q.CLOSE` (R204). -/
def execQClose (s : State) : StepOutcome :=
  attempt .qClose s fun s => .next ((s.setQueue { s.queue with closed := true }).complete .done .none)

end Sys2Proof.Machine
end

