-- ==== Sys2Proof/Machine/Encoder.lean ====
section
/-!
DEFINITION. The PacketEncoder operations (`41_encoder.md`): `TX.MSG`, `TX.CTRL`, `TX.CLOSE`, `TX.PULL`.
-/

namespace Sys2Proof.Machine

/-- An item is offered to the message source (R160, R161): a closed source does not accept it. -/
def State.offer (s : State) (item : SrcItem) : State :=
  if s.tx.srcClosed then s.complete .sourceClosed .none
  else (s.setTx { s.tx with srcQ := s.tx.srcQ ++ [item] }).complete .done .none

/-- `TX.MSG len, payload` (R160). -/
def execTxMsg (payload : List Byte) (s : State) : StepOutcome :=
  attempt (.txMsg payload) s fun s => .next (s.offer (.payload payload))

/-- `TX.CTRL` (R161, R128). -/
def execTxCtrl (s : State) : StepOutcome :=
  attempt .txCtrl s fun s => .next (s.offer .control)

/-- `TX.CLOSE` (R162). -/
def execTxClose (s : State) : StepOutcome :=
  attempt .txClose s fun s => .next ((s.setTx { s.tx with srcClosed := true }).complete .done .none)

/-- The effect of an enabled `TX.PULL cap` (R163). In state Idle with no payload offered the source is closed, or the pull
would not be enabled: the Control items left are discarded and the encoder closes. -/
def State.pull (s : State) (cap : BitVec 24) : State :=
  if s.tx.encClosed then s.complete .sourceClosed (.pull 0 true [])
  else if s.tx.resid = [] then
    match takePayload s.tx.srcQ with
    | some (p, rest) => (s.frameMessage p rest).pullBytes cap
    | none => (s.setTx { s.tx with srcQ := [], encClosed := true }).complete .sourceClosed (.pull 0 true [])
  else s.pullBytes cap

/-- `TX.PULL cap` (R163). -/
def execTxPull (cap : BitVec 24) (s : State) : StepOutcome :=
  attempt (.txPull cap) s fun s => .next (s.pull cap)

end Sys2Proof.Machine
end

