-- ==== Sys2Proof/Machine/HostPort.lean ====
section
/-!
DEFINITION. The Host operations (`46_host.md`): `NOP`, `CFG.WR`, `CFG.RD`, `SYS.RESET`.
-/

namespace Sys2Proof.Machine

/-- `NOP` (R268): no effect; it completes with `Done`. -/
def execNop (s : State) : StepOutcome :=
  attempt .nop s fun s => .next (s.complete .done .none)

/-- The effect of `CFG.WR addr, data` (R261, R264): a locked register in another mode than SETUP raises `CFG_LOCKED`; in SETUP
it is written; a START write with bit 0 = 1 in SETUP commits; any other write is ignored. -/
def State.writeRegister (s : State) (addr : Byte) (data : Word) : State :=
  if lockedAddress addr then
    if s.mode = .setup then (s.setCfg (s.cfg.write addr data)).complete .done .none
    else (s.raiseFault .cfgLocked (addr.setWidth 24)).complete .defect .none
  else if addr = 0x02 ∧ s.mode = .setup ∧ data.getLsbD 0 = true then s.startCommit.complete .done .none
  else s.complete .done .none

/-- `CFG.WR addr, data` (R261). -/
def execCfgWr (addr : Byte) (data : Word) (s : State) : StepOutcome :=
  attempt (.cfgWr addr data) s fun s => .next (s.writeRegister addr data)

/-- `CFG.RD addr` (R263). -/
def execCfgRd (addr : Byte) (s : State) : StepOutcome :=
  attempt (.cfgRd addr) s fun s => .next (s.complete .done (.word (s.regRead addr)))

/-- `SYS.RESET` (R262). -/
def execSysReset (s : State) : StepOutcome :=
  attempt .sysReset s fun s => .next (s.resetBlock.complete .done .none)

end Sys2Proof.Machine
end

