-- ==== Sys2Proof/Machine/BlobPool.lean ====
section
/-!
DEFINITION. The BlobPool operations (`44_pool.md`): `POOL.ACQ`, `POOL.ACQNB`, `POOL.REL`, `POOL.CLOSE`, `BLOB.RD`, `BLOB.LEN`.
-/

namespace Sys2Proof.Machine

/-- What an operation answers that needed a grant (R220): the state, or the fault that R220 gives no effect. -/
def granted (s : Option State) (finish : State → State) : StepOutcome :=
  match s with
  | some t => .next (finish t)
  | none => .fault .grantWithoutPayload

/-- The effect of an external requester's `POOL.ACQ` (R216). -/
def State.acquireExternal (s : State) (r : ReqId) : State :=
  if s.pool.closed then s.completeFor r .poolClosed .none
  else
    match s.pool.takeFree with
    | some (idx, pool) => (s.setPool pool).completeFor r .done (.index idx)
    | none => s.setPool { s.pool with waiters := s.pool.waiters ++ [r] }

/-- `POOL.ACQ r` (R216). Requester 0 is the pipeline, whose acquire is performed only from inside `PIPE.ACQUIRE`: its record
stands for that acquire, enabled and carried out as R242 writes it out (log entry 12). -/
def execPoolAcq (r : ReqId) (s : State) : StepOutcome :=
  attempt (.poolAcq r) s fun s =>
    if r = 0 then
      match s.pipe.res with
      | .ok p => granted (s.pipeAcquireBlob p) fun t => t.complete .done .none
      | .fail _ => .fault .grantWithoutPayload
    else .next (s.acquireExternal r)

/-- The effect of `POOL.ACQNB` (R217). -/
def State.acquireNonBlocking (s : State) (r : ReqId) : State :=
  if s.pool.closed then s.completeFor r .poolClosed .none
  else
    match s.pool.takeFree with
    | some (idx, pool) => (s.setPool pool).completeFor r .done (.index idx)
    | none => s.completeFor r .empty .none

/-- `POOL.ACQNB r` (R217). -/
def execPoolAcqnb (r : ReqId) (s : State) : StepOutcome :=
  attempt (.poolAcqnb r) s fun s => .next (s.acquireNonBlocking r)

/-- `POOL.REL idx` (R218): `BAD_BLOB_INDEX`, then `DOUBLE_RELEASE`, else the release (R222). -/
def execPoolRel (idx : Index) (s : State) : StepOutcome :=
  attempt (.poolRel idx) s fun s =>
    if s.build.poolSize ≤ idx.toNat then .next ((s.raiseFault .badBlobIndex (idx.setWidth 24)).complete .defect .none)
    else if s.pool.inUse idx = false then .next ((s.raiseFault .doubleRelease (idx.setWidth 24)).complete .defect .none)
    else granted (s.releaseBlob idx) fun t => t.complete .done .none

/-- `POOL.CLOSE` (R219): the waiters are woken, oldest first, and none is left. -/
def execPoolClose (s : State) : StepOutcome :=
  attempt .poolClose s fun s =>
    .next ((State.wakeAll s.pool.waiters (s.setPool { s.pool with closed := true, waiters := [] })).complete .done .none)

/-- The specified case of `BLOB.RD` (R226): `idx` < N, the Blob in use, `off` below its length. -/
def State.blobReadable (s : State) (idx : Index) (off : BitVec 16) : Bool :=
  decide (idx.toNat < s.build.poolSize) && s.pool.inUse idx && decide (off.toNat < (s.pool.blen idx).toNat)

/-- The next free value is drawn. -/
def State.draw (s : State) : State := s.setEnv { s.env with draws := s.env.draws + 1 }

/-- `BLOB.RD idx, off` (R226): the byte, or outside the specified case a free one (U2). -/
def execBlobRd (idx : Index) (off : BitVec 16) (s : State) : StepOutcome :=
  attempt (.blobRd idx off) s fun s =>
    .next (if s.blobReadable idx off then s.complete .done (.byte (s.pool.byteAt idx off.toNat))
      else s.draw.complete .done (.byte (Config.freeByte s.env.draws)))

/-- `BLOB.LEN idx` (R227): the length, or for an index that names no Blob a free one (U4). -/
def execBlobLen (idx : Index) (s : State) : StepOutcome :=
  attempt (.blobLen idx) s fun s =>
    .next (if idx.toNat < s.build.poolSize then s.complete .done (.length (s.pool.blen idx))
      else s.draw.complete .done (.length (Config.freeLength s.env.draws)))

end Sys2Proof.Machine
end

