-- ==== Sys2Proof/Machine/Pipeline.lean ====
section
/-!
DEFINITION. The PacketDecoderPipeline operations (`45_pipeline.md`): `PIPE.FETCH`, `PIPE.ACQUIRE`, `PIPE.EMIT`, `RX.TAKE`.
-/

namespace Sys2Proof.Machine

/-- `PIPE.FETCH` (R241). -/
def execPipeFetch (s : State) : StepOutcome :=
  attempt .pipeFetch s fun s => .next (s.fetchPacket.complete .done .none)

/-- `PIPE.ACQUIRE` (R242). It is enabled only while `pipe_res` is an `Ok`. -/
def execPipeAcquire (s : State) : StepOutcome :=
  attempt .pipeAcquire s fun s =>
    match s.pipe.res with
    | .ok p => granted (s.pipeAcquireBlob p) fun t => t.complete .done .none
    | .fail _ => .fault .grantWithoutPayload

/-- The state change of an enabled `PIPE.EMIT` (R245). -/
def Pipe.emit (p : Pipe) : Pipe :=
  if p.state = .filled then
    { p with outMsg := some (.ok p.blob.1 p.blob.2), cntOk := p.cntOk + 1, state := .waitPacket }
  else { p with outMsg := some .fail, cntFail := p.cntFail + 1, state := .waitPacket }

/-- `PIPE.EMIT` (R245). -/
def execPipeEmit (s : State) : StepOutcome :=
  attempt .pipeEmit s fun s => .next ((s.setPipe s.pipe.emit).complete .done .none)

/-- `RX.TAKE` (R249): the message, or once the stopped pipeline has none left the reason it stopped. -/
def execRxTake (s : State) : StepOutcome :=
  attempt .rxTake s fun s =>
    .next (match s.pipe.outMsg with
      | some m => (s.setPipe { s.pipe with outMsg := none }).complete .done (.message m)
      | none => if s.pipe.stop = .queueClosed then s.complete .queueClosed .none else s.complete .poolClosed .none)

end Sys2Proof.Machine
end

