-- ==== Sys2Proof/Machine/SyncUnit.lean ====
section
/-!
DEFINITION. The Sync unit operations (`42_sync.md`): `RX.BIT`, `SYNC.PUSH`.
-/

namespace Sys2Proof.Machine

/-- One bit in state Search (R182, R183): the bit enters `sr`, and a match starts the header. -/
def Sync.searchBit (y : Sync) (c : Cfg) (b : Bool) : Sync :=
  let sr := (y.sr <<< 1) ||| (BitVec.ofBool b).setWidth 64
  let fill := BitVec.ofNat 7 (min (y.fill.toNat + 1) 64)
  if c.n.toNat ≤ fill.toNat ∧ acMatch c sr then
    { y with sr := sr, fill := fill, hdr := 0, hcnt := 0, state := .header }
  else { y with sr := sr, fill := fill }

/-- One bit in state Header (R182, R184): after 32 bits the VER field decides between Search and Payload. -/
def Sync.headerBit (y : Sync) (b : Bool) : Sync :=
  let hdr := (y.hdr <<< 1) ||| (BitVec.ofBool b).setWidth 32
  let hcnt := y.hcnt + 1
  if hcnt = 32 then
    if hdr.extractLsb' 28 4 ≠ Config.frameVersion then { y with hdr := hdr, hcnt := hcnt, fill := 0, state := .search }
    else
      { y with
        hdr := hdr, hcnt := hcnt
        cap := be32 hdr
        need := 8 + (hdr.extractLsb' 0 16).setWidth 17
        acc := 0, bcnt := 0, state := .payload }
  else { y with hdr := hdr, hcnt := hcnt }

/-- One bit in state Payload (R182, R185): eight bits make a byte of `cap`, and a complete capture is handed to the queue. -/
def State.payloadBit (s : State) (b : Bool) : State :=
  let y := s.sync
  let acc := (y.acc <<< 1) ||| (BitVec.ofBool b).setWidth 8
  let bcnt := y.bcnt + 1
  if bcnt = 8 then
    let s := s.setSync { y with cap := y.cap ++ [acc], acc := 0, bcnt := 0 }
    if s.sync.cap.length = y.need.toNat then s.tryEnqueue else s
  else s.setSync { y with acc := acc, bcnt := bcnt }

/-- The state change of an enabled `RX.BIT b` (R182): with `ext_sink` = 1 or in state Stopped the bit is discarded. -/
def State.receiveBit (s : State) (b : Bool) : State :=
  if s.cfg.extSink then s
  else
    match s.sync.state with
    | .search => s.setSync (s.sync.searchBit s.cfg b)
    | .header => s.setSync (s.sync.headerBit b)
    | .payload => s.payloadBit b
    | .push => s
    | .stopped => s

/-- `RX.BIT b` (R182). -/
def execRxBit (b : Bool) (s : State) : StepOutcome :=
  attempt (.rxBit b) s fun s => .next ((s.receiveBit b).complete .done .none)

/-- `SYNC.PUSH` (R186). -/
def execSyncPush (s : State) : StepOutcome :=
  attempt .syncPush s fun s => .next (s.tryEnqueue.complete .done .none)

end Sys2Proof.Machine
end

