-- ==== Sys2Proof/Machine/Dispatch.lean ====
section
/-!
DEFINITION. The meaning of each operation, one arm per constructor of `Instr`.
-/

namespace Sys2Proof.Machine

def exec (i : Instr) (s : State) : Host.Outcome State Fault Refusal :=
  match i with
  | .nop => Sys2Proof.Machine.execNop s
  | .cfgWr addr data => Sys2Proof.Machine.execCfgWr addr data s
  | .cfgRd addr => Sys2Proof.Machine.execCfgRd addr s
  | .sysReset => Sys2Proof.Machine.execSysReset s
  | .txMsg payload => Sys2Proof.Machine.execTxMsg payload s
  | .txCtrl => Sys2Proof.Machine.execTxCtrl s
  | .txClose => Sys2Proof.Machine.execTxClose s
  | .txPull cap => Sys2Proof.Machine.execTxPull cap s
  | .rxBit b => Sys2Proof.Machine.execRxBit b s
  | .syncPush => Sys2Proof.Machine.execSyncPush s
  | .qEnq length bytes => Sys2Proof.Machine.execQEnq length bytes s
  | .qDeq => Sys2Proof.Machine.execQDeq s
  | .qClose => Sys2Proof.Machine.execQClose s
  | .poolAcq r => Sys2Proof.Machine.execPoolAcq r s
  | .poolAcqnb r => Sys2Proof.Machine.execPoolAcqnb r s
  | .poolRel idx => Sys2Proof.Machine.execPoolRel idx s
  | .poolClose => Sys2Proof.Machine.execPoolClose s
  | .blobRd idx off => Sys2Proof.Machine.execBlobRd idx off s
  | .blobLen idx => Sys2Proof.Machine.execBlobLen idx s
  | .pipeFetch => Sys2Proof.Machine.execPipeFetch s
  | .pipeAcquire => Sys2Proof.Machine.execPipeAcquire s
  | .pipeEmit => Sys2Proof.Machine.execPipeEmit s
  | .rxTake => Sys2Proof.Machine.execRxTake s

end Sys2Proof.Machine
end

