-- ==== Sys2Proof/Machine/Schedule.lean ====
section
/-!
DEFINITION. What the environment presents next (`20_memory.md` R75, R76, R84; `30_encoding.md` R110, R120): the records of the
script, and the choices of the eager schedule. `Step.lean` only calls these.
-/

namespace Sys2Proof.Machine

/-- The operation of an internal step. -/
def Internal.instr : Internal → Instr
  | .syncPush => .syncPush
  | .pipeFetch => .pipeFetch
  | .pipeAcquire => .pipeAcquire
  | .pipeEmit => .pipeEmit

/-- The next internal step in the order of R84, the pass repeating. -/
def Internal.succ : Internal → Internal
  | .syncPush => .pipeFetch
  | .pipeFetch => .pipeAcquire
  | .pipeAcquire => .pipeEmit
  | .pipeEmit => .syncPush

/-- The first enabled of `k` internal steps from `t` on. -/
def State.findInternal (s : State) : Nat → Internal → Option Internal
  | 0, _ => none
  | k + 1, t => if s.enabled t.instr then some t else State.findInternal s k t.succ

/-- The internal step the eager schedule takes now, if one is enabled (R84): the pass over the four goes on where it stood. -/
def State.nextInternal (s : State) : Option Internal := s.findInternal 4 s.env.turn

/-- The place of the oldest pending operation that has become enabled (R84). -/
def State.nextPending (s : State) : Option Nat := s.env.pending.findIdx? fun rq => s.enabled rq.instr

/-- The agent `a` issues the next operation. -/
def State.issuedBy (s : State) (a : Agent) : State := s.setEnv { s.env with agent := a, again := false }

/-- The next pass of the eager schedule starts at `t`. -/
def State.turnTo (s : State) (t : Internal) : State := s.setEnv { s.env with turn := t }

/-- A record of agent `a` has been read: `more` of its bytes and the choices `rest` are still to come. -/
def State.fetched (s : State) (a : Agent) (more : List Byte) (rest : List Choice) : State :=
  s.setEnv { s.env with agent := a, again := false, script := if more = [] then rest else .present a more :: rest }

/-- The script goes on with the choices `rest`. -/
def State.scriptTo (s : State) (rest : List Choice) : State := s.setEnv { s.env with script := rest }

/-- The outstanding operation `rq`, the k-th oldest, is withdrawn to be attempted again by its agent, with nothing presented at the pins. -/
def State.resumed (s : State) (k : Nat) (rq : Request) : State :=
  s.setEnv { s.env with agent := rq.agent, again := true, pending := s.env.pending.eraseIdx k }

/-- The k-th oldest outstanding operation is attempted again (R45): it completes if it is enabled, and else stays as it was. -/
def State.resume (s : State) (k : Nat) : StepOutcome :=
  match s.env.pending[k]? with
  | some rq => if s.enabled rq.instr then exec rq.instr (s.resumed k rq) else .next s
  | none => .next s

/-- The next choice of the script: a record is decoded and its operation attempted, or an outstanding operation is attempted again. With
nothing to present the block waits (R322); an agent that presents no bytes does nothing; bytes that encode no operation are refused
(R127). -/
def stepScript (s : State) : StepOutcome :=
  match s.env.script with
  | [] => .next s
  | .resume k :: rest => (s.scriptTo rest).resume k
  | .present _ [] :: rest => .next (s.scriptTo rest)
  | .present a (b :: bs) :: rest =>
    match decode (b :: bs) with
    | .error e => .refused (.badRecord e)
    | .ok (i, more) => exec i (s.fetched a more rest)

/-- One step of the eager schedule (R84): an enabled internal step first, then a pending operation that has become enabled,
oldest first, then the script. -/
def stepEager (s : State) : StepOutcome :=
  match s.nextInternal with
  | some t => exec t.instr ((s.issuedBy (issuerOf t.instr)).turnTo t.succ)
  | none =>
    match s.nextPending with
    | some k => (s.turnTo .syncPush).resume k
    | none => stepScript (s.turnTo .syncPush)

/-- The agent that presents an opcode-table word: the issuer R112 names for the operation it encodes. -/
def tableIssuer (nbits w : Nat) : Agent :=
  match decodeTableWord nbits w with
  | some i => issuerOf i
  | none => .host

/-- The script with an opcode-table word as its next record. -/
def Env.withTableWord (e : Env) (nbits w : Nat) : Env :=
  { e with schedule := .oracle, script := .present (tableIssuer nbits w) (tableBytes nbits w) :: e.script }

end Sys2Proof.Machine
end

