-- ==== Sys2Proof/Machine/Step.lean ====
section
/-!
DEFINITION. One step of the machine: one operation attempted, chosen by the schedule in force (`20_memory.md` R75, R84).
-/

namespace Sys2Proof.Machine

/-- One step: one atomic operation (R8, R73). -/
def step (s : State) : Host.Outcome State Fault Refusal :=
  match s.env.schedule with
  | .oracle => stepScript s
  | .eager => stepEager s

/-- `s` with the record of an opcode-table word, presented by its issuer, as what the next step reads (log entry 1). -/
def State.withFetchWord (s : State) (nbits w : Nat) : State := s.setEnv (s.env.withTableWord nbits w)

end Sys2Proof.Machine
end

