-- ==== Sys2Proof/Safety.lean ====
section
/-!
DEFINITION. The terms statements use: when an operation can be presented, what its completion and its blocking leave in the
environment, a run without faults, and the invariants of the block.
-/

namespace Sys2Proof.Machine

/-! ## Presenting an operation -/

/-- The ports can form the operation and its agent may issue it (R112, R127), and no operation is outstanding on its port (R335). What a requester id or `ext_sink` adds (R127, R200, R216 c) is said where it applies. -/
abbrev Presentable (i : Instr) (s : State) : Prop :=
  i.wellFormed = true ∧ mayIssue s.env.agent i = true ∧
    ∀ rq ∈ s.env.pending, portOf i ≠ none → portOf rq.instr ≠ portOf i

/-- The environment after an operation has been taken up and has returned `rs`. -/
def Env.answered (e : Env) (rs : List Reply) : Env := { e with replies := rs }

/-- The environment after the operation of the issuing agent has been taken up and has completed with a code and a result. -/
def Env.done (e : Env) (code : Code) (result : Result) : Env :=
  e.answered [{ agent := e.agent, requester := none, code := code, result := result }]

/-- The environment after an acquire of requester `r` has been taken up and has completed. -/
def Env.doneFor (e : Env) (r : ReqId) (code : Code) (result : Result) : Env :=
  e.answered [{ agent := .appRx, requester := some r, code := code, result := result }]

/-- The environment after the operation has blocked: its issuer keeps the request (R45). -/
def Env.holding (e : Env) (i : Instr) : Env :=
  { e with
    pending := if portOf i = none then e.pending else e.pending ++ [{ agent := e.agent, instr := i }]
    replies := [] }

/-- The operation blocks: the answer is the same block state, with the request kept by its issuer (R16, R45). -/
def Blocks (i : Instr) (s : State) : Prop :=
  exec i s = .next { s with env := s.env.holding i }

/-- The operation completes with `Done` and a result, and leaves everything else as it was. -/
def Answers (i : Instr) (s : State) (r : Result) : Prop :=
  exec i s = .next { s with env := s.env.done .done r }

/-! ## Runs of operations -/

/-- Operations attempted one after another, each by its agent. -/
def runOps : List (Agent × Instr) → State → StepOutcome
  | [], s => .next s
  | (a, i) :: ops, s =>
    match exec i (s.issuedBy a) with
    | .next t => runOps ops t
    | .fault e => .fault e
    | .refused r => .refused r

/-- The demodulator presents bits, one `RX.BIT` each. -/
def presentBits (bs : Bits) (s : State) : StepOutcome := runOps (bs.map fun b => (.demod, .rxBit b)) s

/-- The modulator pulls once for each capacity; the bytes it gets, in order, and the state left. `none` when a pull does not
complete. -/
def pullAll : List (BitVec 24) → State → Option (List Byte × State)
  | [], s => some ([], s)
  | cap :: caps, s =>
    match exec (.txPull cap) (s.issuedBy .mod) with
    | .next t =>
      match t.env.replies with
      | [⟨_, _, _, .pull _ _ data⟩] => (pullAll caps t).map fun r => (data ++ r.1, r.2)
      | _ => none
    | _ => none

/-- The frames of the payloads of a source, in arrival order, from a whitener offset on (R77, R164). -/
def framesOf (b : Build) (c : Cfg) : BitVec 4 → List SrcItem → List Byte
  | _, [] => []
  | w, .control :: q => framesOf b c w q
  | w, .payload p :: q =>
    encodeFrame b.alignSamples p c.sps.toNat c.bps.toNat c.ac w ++ framesOf b c (if c.useWo then w + 1 else w) q

/-- Every byte the encoder has still to emit for what has been offered: the rest of the frame it drains, then the frames of
`src_q` (R167). -/
def State.outgoing (s : State) : List Byte := s.tx.resid ++ framesOf s.build s.cfg s.tx.woff s.tx.srcQ

/-- A run is safe while no fault bit is set: the premise under which R12 and R311 make claims. -/
def State.faultFree (s : State) : Prop := s.fault = 0

/-- The data-plane operations, which only mode RUN enables (R267), and the pipeline's dequeue inside `PIPE.FETCH` (R203). -/
def dataPlane : Instr → Bool
  | .txMsg _ | .txCtrl | .txPull _ | .rxBit _ | .syncPush | .qEnq _ _ | .qDeq | .poolAcq _ | .poolAcqnb _ | .poolRel _
  | .blobRd _ _ | .blobLen _ | .pipeFetch | .pipeAcquire | .pipeEmit | .rxTake => true
  | .nop | .cfgWr _ _ | .cfgRd _ | .sysReset | .txClose | .qClose | .poolClose => false

/-! ## Invariants -/

/-- The configuration keeps its legal values (R23 to R26), and outside mode RUN no access code is committed (R24, R56). -/
structure CfgInv (s : State) : Prop where
  chars : s.cfg.acChars.length ≤ 65
  threshold : s.cfg.threshold.toNat ≤ 64
  sps : 1 ≤ s.cfg.sps.toNat
  bps : 1 ≤ s.cfg.bps.toNat ∧ s.cfg.bps.toNat ≤ 8
  committed : s.mode = .run →
    (1 ≤ s.cfg.ac.length ∧ s.cfg.ac.length ≤ 64) ∧ s.cfg.n.toNat = s.cfg.ac.length ∧
      s.cfg.acv = accessCodeValue s.cfg.ac ∧ s.cfg.mask = accessCodeMask s.cfg.ac.length
  uncommitted : s.mode ≠ .run → s.cfg.ac = [] ∧ s.cfg.n = 0 ∧ s.cfg.acv = 0 ∧ s.cfg.mask = 0

/-- Mode FAILED is the mark of fault 0 (R281), and the capture register is 0 before the first fault (R22). -/
structure FaultInv (s : State) : Prop where
  failed : s.mode = .failed ↔ s.fault.getLsbD 0 = true
  info : s.fault = 0 → s.faultInfo = 0

/-- The transmit half (R27 to R30, R164): the cursor stands in the frame, a closed encoder has nothing left and a closed source,
the offset is the frame count mod 16 with rotation and 0 without. -/
structure TxInv (s : State) : Prop where
  cursor : s.tx.encRd ≤ s.tx.encEnd ∧ s.tx.encEnd ≤ s.tx.encBuf.length
  payloads : ∀ p, .payload p ∈ s.tx.srcQ → p.length ≤ Config.maxPayload
  closed : s.tx.encClosed = true → s.tx.resid = [] ∧ s.tx.srcQ = [] ∧ s.tx.srcClosed = true
  offset : s.tx.woff = if s.cfg.useWo then s.tx.cntTx.setWidth 4 else 0
  idle : s.mode ≠ .run → s.tx.srcQ = [] ∧ s.tx.resid = [] ∧ s.tx.encClosed = false ∧ s.tx.cntTx = 0

/-- The Sync unit (R34 to R36): its counters stay in range and the capture holds what its state says. -/
structure SyncInv (s : State) : Prop where
  fill : s.sync.fill.toNat ≤ 64
  header : s.sync.state = .header → s.sync.hcnt.toNat < 32
  need : s.sync.state = .payload ∨ s.sync.state = .push → 8 ≤ s.sync.need.toNat ∧ s.sync.need.toNat ≤ Config.rawMax
  payload : s.sync.state = .payload → s.sync.bcnt.toNat < 8 ∧ s.sync.cap.length < s.sync.need.toNat
  push : s.sync.state = .push → s.sync.cap.length = s.sync.need.toNat
  empty : s.sync.state = .search ∨ s.sync.state = .header ∨ s.sync.state = .stopped → s.sync.cap = []
  idle : s.mode ≠ .run → s.sync = Sync.reset

/-- The queue (R201): never more than `QUEUE_CAP` packets, none longer than `RAW_MAX`. -/
structure QueueInv (s : State) : Prop where
  room : s.queue.q.length ≤ s.build.queueCap
  packets : ∀ rp ∈ s.queue.q, rp.bytes.length ≤ Config.rawMax
  idle : s.mode ≠ .run → s.queue.q = []

/-- The pool (R215 a, b, c, e; R39), which outside mode RUN has handed nothing out. -/
structure PoolInv (s : State) : Prop where
  size : s.pool.blobs.length = s.build.poolSize
  freeDistinct : s.pool.free.Nodup
  freeIff : ∀ idx : Index, idx ∈ s.pool.free ↔ idx.toNat < s.build.poolSize ∧ s.pool.inUse idx = false
  waitersDistinct : s.pool.waiters.Nodup
  waitersIds : ∀ r ∈ s.pool.waiters, r.toNat < s.build.reqIds
  waiting : s.pool.waiters ≠ [] → s.pool.free = [] ∧ s.pool.closed = false
  lengths : ∀ idx : Index, (s.pool.blen idx).toNat ≤ s.build.blobCap
  freeLength : ∀ idx : Index, s.pool.inUse idx = false → s.pool.blen idx = 0
  pipeWaits : 0 ∈ s.pool.waiters ↔ s.pipe.state = .waitBlob
  idle : s.mode ≠ .run → s.pool.waiters = [] ∧ s.pool.free.length = s.build.poolSize

/-- The BLOB memory has its canonical form, and every byte below a Blob's length has been written (R64, R226). -/
structure MemInv (s : State) : Prop where
  canonical : s.pool.mem.wf = true
  written : ∀ (idx : Index) (k : Nat), k < (s.pool.blen idx).toNat → (s.pool.mem.read (blobAddr idx k)).isSome = true

/-- The pipeline (R41, R42): while it waits for a Blob it holds a payload, a payload has at most 65535 bytes, and the pipeline
is stopped exactly when it has a reason. -/
structure PipeInv (s : State) : Prop where
  payload : ∀ p, s.pipe.res = .ok p → p.length ≤ Config.maxPayload
  holds : s.pipe.state = .waitBlob → ∃ p, s.pipe.res = .ok p
  stop : s.pipe.state = .stopped ↔ s.pipe.stop ≠ .notStopped
  idle : s.mode ≠ .run → s.pipe.state = .waitPacket ∧ s.pipe.outMsg = none

/-- The outstanding operations (R76, R335): each on a port, no two on one port, each by an agent that may issue it. -/
structure PendingInv (s : State) : Prop where
  ports : ∀ rq ∈ s.env.pending, portOf rq.instr ≠ none
  distinct : s.env.pending.Pairwise fun a b => portOf a.instr ≠ portOf b.instr
  issuers : ∀ rq ∈ s.env.pending, mayIssue rq.agent rq.instr = true

/-- The invariant of the block: the build parameters are legal and every unit keeps its own. -/
structure Inv (s : State) : Prop where
  build : s.build.legal
  cfg : CfgInv s
  fault : FaultInv s
  tx : TxInv s
  sync : SyncInv s
  queue : QueueInv s
  pool : PoolInv s
  mem : MemInv s
  pipe : PipeInv s
  pending : PendingInv s

end Sys2Proof.Machine
end

