-- ==== Sys2Proof/Certificates/Slice0/Obligations.lean ====
section
/-!
DEFINITION. The statements for the provers. An operation's statement says its answer as one equation: `exec` answers `next` of the
state with exactly the fields named written, so every other register, every byte of memory and every other field stays as it was.
`env` is the environment, no register of the block: `done` and `answered` only record the completion returned.
-/

open Sys2Proof Sys2Proof.Machine

/-! ## Records (`30_encoding.md`) -/

/-- Decoding the record of any well-formed operation gives the operation back, with every operand, and leaves what follows. -/
def Obligations.DecodeInvertsEncode : Prop :=
  ∀ (i : Instr) (rest : List Byte), i.wellFormed = true → decode (encode i ++ rest) = .ok (i, rest)

/-- Each operation has one record: what decodes is the record of the operation decoded, and that operation is well-formed. -/
def Obligations.DecodedBytesAreTheRecord : Prop :=
  ∀ (bs rest : List Byte) (i : Instr), decode bs = .ok (i, rest) → i.wellFormed = true ∧ bs = encode i ++ rest

/-- The records `40 01`, `42 00 00`, `01 0B 00 00 00 00`, `10 00 05 48 45 4C 4C 4F`, `13 FF FF FF`, `20 01`, `44 00 00 00 01` and
`30 00 00 02 00 00 01 AA` of the spec's formats. -/
def Obligations.SampleRecordsDecode : Prop :=
  decode [0x40, 0x01] = .ok (.poolAcq 1, []) ∧
  decode [0x42, 0x00, 0x00] = .ok (.poolRel 0, []) ∧
  decode [0x01, 0x0B, 0x00, 0x00, 0x00, 0x00] = .ok (.cfgWr 0x0B 0, []) ∧
  decode [0x10, 0x00, 0x05, 0x48, 0x45, 0x4C, 0x4C, 0x4F] = .ok (.txMsg [0x48, 0x45, 0x4C, 0x4C, 0x4F], []) ∧
  decode [0x13, 0xFF, 0xFF, 0xFF] = .ok (.txPull 16777215, []) ∧
  decode [0x20, 0x01] = .ok (.rxBit true, []) ∧
  decode [0x44, 0x00, 0x00, 0x00, 0x01] = .ok (.blobRd 0 1, []) ∧
  decode [0x30, 0x00, 0x00, 0x02, 0x00, 0x00, 0x01, 0xAA] = .ok (.qEnq 2 [0xAA], [])

/-- What R127 lists encodes no operation and is refused: an opcode byte outside the table, a bit operand other than 0 and 1, a
packet longer than `RAW_MAX`, `Q.ENQ` issued while `ext_sink` = 0 (one attempted again is not issued then, log entry 19), a
requester id of `REQ_IDS` or more, id 0 from outside the block, an operation from an agent that is not its issuer; a step whose next
bytes encode no operation is refused. So is an operation presented while one is outstanding on its port (R335), and an acquire under
a requester id whose acquire is suspended (R216 c, R335). The script is the model's (log entry 1). -/
def Obligations.UnformableOperationsRefused : Prop :=
  (∀ (op : Byte) (rest : List Byte),
    op ∉ ([0x00, 0x01, 0x02, 0x0F, 0x10, 0x11, 0x12, 0x13, 0x20, 0x22, 0x30, 0x31, 0x32, 0x40, 0x41, 0x42, 0x43, 0x44, 0x45, 0x50,
      0x51, 0x52, 0x60] : List Byte) → decode (op :: rest) = .error (.noSuchOpcode op)) ∧
  (∀ (a : Byte) (rest : List Byte), a.extractLsb' 1 7 ≠ 0 → decode (0x20 :: a :: rest) = .error (.bitOperandReserved a)) ∧
  (∀ (length cnt : BitVec 24) (rest : List Byte), 65543 < cnt.toNat →
    decode (0x30 :: be24 length ++ be24 cnt ++ rest) = .error (.packetTooLong cnt)) ∧
  (∀ (s : State) (length : BitVec 24) (bytes : List Byte), s.cfg.extSink = false → s.env.again = false →
    ∃ r, exec (.qEnq length bytes) s = .refused r) ∧
  (∀ (s : State) (a : Agent) (bs more : List Byte) (rest : List Choice) (length : BitVec 24) (bytes : List Byte),
    s.cfg.extSink = false → s.env.schedule = .oracle → s.env.script = .present a bs :: rest →
    decode bs = .ok (.qEnq length bytes, more) → ∃ r, step s = .refused r) ∧
  (∀ (s : State) (r : ReqId), s.build.reqIds ≤ r.toNat →
    (∃ e, exec (.poolAcq r) s = .refused e) ∧ ∃ e, exec (.poolAcqnb r) s = .refused e) ∧
  (∀ (s : State), s.env.agent ≠ .pipe → (∃ e, exec (.poolAcq 0) s = .refused e) ∧ ∃ e, exec (.poolAcqnb 0) s = .refused e) ∧
  (∀ (s : State) (i : Instr), i ≠ .nop → s.env.agent ≠ issuerOf i → (i = .qClose → s.env.agent ≠ .demod) →
    ∃ e, exec i s = .refused e) ∧
  (∀ (s : State) (a : Agent) (b : Byte) (bs : List Byte) (rest : List Choice) (e : DecodeError),
    s.env.schedule = .oracle → s.env.script = .present a (b :: bs) :: rest → decode (b :: bs) = .error e →
    step s = .refused (.badRecord e)) ∧
  (∀ (s : State) (i : Instr) (rq : Request), rq ∈ s.env.pending → portOf i ≠ none → portOf rq.instr = portOf i →
    ∃ e, exec i s = .refused e) ∧
  (∀ (s : State) (r : ReqId), r ≠ 0 → r ∈ s.pool.waiters →
    (∃ e, exec (.poolAcq r) s = .refused e) ∧ ∃ e, exec (.poolAcqnb r) s = .refused e)

/-- When the script's next bytes decode to an operation, the step is that operation's meaning, issued by the agent that presents the
bytes, with the record taken out of the script and nothing else of the block changed. When the script's next choice is that an outstanding
operation is attempted again, the step is that operation's meaning, issued by its agent and withdrawn from the outstanding ones, if
it is enabled, and else changes nothing. The script is the model's (log entries 1 and 2). -/
def Obligations.StepRunsDecodedRecord : Prop :=
  (∀ (s : State) (a : Agent) (bs more : List Byte) (rest : List Choice) (i : Instr),
    s.env.schedule = .oracle → s.env.script = .present a bs :: rest → decode bs = .ok (i, more) → i.wellFormed = true →
    step s = exec i { s with env := { s.env with
      agent := a, again := false, script := if more = [] then rest else .present a more :: rest } }) ∧
  ∀ (s : State) (k : Nat) (rest : List Choice) (rq : Request),
    s.env.schedule = .oracle → s.env.script = .resume k :: rest → s.env.pending[k]? = some rq →
    (s.enabled rq.instr = true →
      step s = exec rq.instr { s with env := { s.env with
        agent := rq.agent, again := true, script := rest, pending := s.env.pending.eraseIdx k } }) ∧
    (s.enabled rq.instr = false → step s = .next { s with env := { s.env with script := rest } })

/-- The choices of the eager schedule (log entry 2 says how the model reads R84): the first enabled internal step from the cursor
on, in the order `SYNC.PUSH`, `PIPE.FETCH`, `PIPE.ACQUIRE`, `PIPE.EMIT`; else the oldest pending operation that is enabled, which
is pending no longer; else the script, as in the other schedule. -/
def Obligations.EagerScheduleOrder : Prop :=
  (∀ (s : State) (k : Nat), s.env.schedule = .eager → k < 4 →
    (∀ j < k, s.enabled (Internal.succ^[j] s.env.turn).instr = false) → s.enabled (Internal.succ^[k] s.env.turn).instr = true →
    step s = exec (Internal.succ^[k] s.env.turn).instr
      { s with env := { s.env with
        agent := issuerOf (Internal.succ^[k] s.env.turn).instr, again := false, turn := Internal.succ^[k + 1] s.env.turn } }) ∧
  (∀ (s : State) (before after : List Request) (rq : Request), s.env.schedule = .eager →
    (∀ t : Internal, s.enabled t.instr = false) → s.env.pending = before ++ rq :: after →
    (∀ r ∈ before, s.enabled r.instr = false) → s.enabled rq.instr = true →
    step s = exec rq.instr { s with env := { s.env with
      agent := rq.agent, again := true, turn := .syncPush, pending := before ++ after } }) ∧
  (∀ (s : State), s.env.schedule = .eager → (∀ t : Internal, s.enabled t.instr = false) →
    (∀ r ∈ s.env.pending, s.enabled r.instr = false) →
    step s = stepScript { s with env := { s.env with turn := .syncPush } })

/-! ## PacketCodec (`40_codec.md`) -/

/-- The access code's validation (R130) and the default code (R131, general knowledge G1 of the spec, log entry 8): the empty string
gives the default; a string of at most 64 characters, all `0` or `1`, gives its bits; every other string is invalid. The committed
value and mask (R24): bit n-1-i of the value is `ac[i]`, its bits n and above are 0, and the mask has exactly the bits below n. -/
def Obligations.AccessCodeValidationAndValue : Prop :=
  (∃ code, validateAccessCode [] = some code ∧ code.length = 64 ∧ accessCodeValue code = 0xACDDA4E2F28C20FC) ∧
  (∀ chars : List Byte, chars ≠ [] →
    validateAccessCode chars =
      if chars.length ≤ 64 ∧ ∀ c ∈ chars, c = 0x30 ∨ c = 0x31 then some (chars.map fun c => decide (c = 0x31)) else none) ∧
  ∀ code : Bits, code.length ≤ 64 →
    (∀ (i : Nat) (h : i < code.length), (accessCodeValue code).getLsbD (code.length - 1 - i) = code[i]) ∧
    (∀ j, code.length ≤ j → (accessCodeValue code).getLsbD j = false) ∧
    ∀ j < 64, (accessCodeMask code.length).getLsbD j = decide (j < code.length)

/-- The match test is a bound on the Hamming distance between the last n bits received, oldest first, and the access code (R180);
so a threshold of n or more matches every window. -/
def Obligations.MatchBoundsHammingDistance : Prop :=
  ∀ (c : Cfg) (code : Bits) (sr : BitVec 64), code.length ≤ 64 → c.acv = accessCodeValue code →
    c.mask = accessCodeMask code.length →
    (acMatch c sr = true ↔
      (List.range code.length).countP (fun i => code[i]? != some (sr.getLsbD (code.length - 1 - i))) ≤ c.threshold.toNat) ∧
    (code.length ≤ c.threshold.toNat → acMatch c sr = true)

/-- The whitening sequence (R132, general knowledge G3 of the spec, log entry 8): eight bits of an LFSR sequence a byte, first bit
lowest, with the recurrence of x^9 + x^5 + 1 from nine ones, of period 511. -/
def Obligations.WhiteningSequenceOfPeriod511 : Prop :=
  let bit : Nat → Bool := fun j => (lfsrShift^[j] 0x1FF).getLsbD 0
  (∀ j < 9, bit j = true) ∧ (∀ j, bit (j + 9) = (bit j ^^ bit (j + 5))) ∧ (∀ j, bit (j + 511) = bit j) ∧
  (∀ k, ∀ i < 8, (pn k).getLsbD i = bit (8 * k + i)) ∧ ∀ k, pn (k + 511) = pn k

/-- Whitening meets payload byte i with sequence byte off + i, keeps the length, and is its own inverse (R134). -/
def Obligations.WhiteningPointwiseAndInvolutive : Prop :=
  ∀ (p : List Byte) (off : BitVec 4),
    (whiten p off).length = p.length ∧
    (∀ (i : Nat) (h : i < p.length), (whiten p off)[i]? = some (p[i] ^^^ pn (off.toNat + i))) ∧
    whiten (whiten p off) off = p

/-- The alignment modulus (R140): a frame length is a multiple of it exactly when it is a whole number of bytes, a whole number of
symbols, and its samples a whole number of alignment units. The padding (R141): the fewest bits that bring the frame to a multiple
of the modulus, alternating from 0 on, with the header byte PADLEN saying how many whole bytes of them there are, at most 255. -/
def Obligations.AlignmentAndPadding : Prop :=
  (∀ alignSamples sps bps : Nat, 1 ≤ alignSamples → 1 ≤ sps → 1 ≤ bps →
    (∀ F, alignModulus alignSamples sps bps ∣ F ↔ 8 ∣ F ∧ bps ∣ F ∧ alignSamples ∣ F / bps * sps) ∧
    alignModulus 1 sps bps = Nat.lcm 8 bps) ∧
  ∀ M core : Nat, 0 < M →
    padBits M core = (M - core % M) % M ∧ padBits M core < M ∧ M ∣ core + padBits M core ∧
    (∀ P, M ∣ core + P → padBits M core ≤ P) ∧
    (core % M = 0 → padBits M core = 0) ∧
    (∀ P, (padding P).length = P ∧ ∀ j < P, (padding P)[j]? = some (decide (j % 2 = 1))) ∧
    (∀ n L, coreBits n L = n + 64 + 8 * L) ∧
    ∀ (off : BitVec 4) (P L : Nat), (headerBytes off P L)[1]? = some (BitVec.ofNat 8 (min 255 (P / 8)))

/-- The frame (R91, R143): access code, header, whitened payload, CRC trailer over header and plain payload, padding, bit after
bit with nothing between; a whole number of bytes, never empty. -/
def Obligations.FrameLayout : Prop :=
  ∀ (alignSamples sps bps : Nat) (payload : List Byte) (ac : Bits) (off : BitVec 4),
    1 ≤ alignSamples → 1 ≤ sps → 1 ≤ bps → 1 ≤ ac.length → ac.length ≤ 64 → payload.length ≤ 65535 →
    let core := ac.length + 64 + 8 * payload.length
    let M := Nat.lcm 8 (bps * alignSamples / Nat.gcd alignSamples sps)
    let P := (M - core % M) % M
    let H : List Byte :=
      [0x10 ||| off.setWidth 8, BitVec.ofNat 8 (min 255 (P / 8)), BitVec.ofNat 8 (payload.length / 256),
        BitVec.ofNat 8 (payload.length % 256)]
    let frame := encodeFrame alignSamples payload sps bps ac off
    bits frame =
      ac ++ bits H ++ bits (whiten payload off) ++ bits (be32 (crc32 (H ++ payload))) ++
        (List.range P).map (fun j => decide (j % 2 = 1)) ∧
    8 * frame.length = core + P ∧ frame ≠ []

/-- How the packet decoder classifies every input (R146): the four tests in their order, on the first min(len, hint) bytes. -/
def Obligations.PacketDecoderClassifies : Prop :=
  ∀ (raw : List Byte) (hint : BitVec 24),
    let m := min raw.length hint.toNat
    let byte : Nat → Nat := fun k => ((raw[k]?).getD 0).toNat
    let L := 256 * byte 2 + byte 3
    let p := whiten ((raw.drop 4).take L) (BitVec.ofNat 4 (byte 0 % 16))
    (m < 8 → decodePacket raw hint = .fail .tooShort) ∧
    (8 ≤ m → byte 0 / 16 ≠ 1 → decodePacket raw hint = .fail .badVersion) ∧
    (8 ≤ m → byte 0 / 16 = 1 → m < 8 + L → decodePacket raw hint = .fail .lengthInconsistent) ∧
    (8 ≤ m → byte 0 / 16 = 1 → 8 + L ≤ m →
      decodePacket raw hint =
        if (crc32 (raw.take 4 ++ p)).toNat =
            16777216 * byte (4 + L) + 65536 * byte (5 + L) + 256 * byte (6 + L) + byte (7 + L)
        then .ok p else .fail .crcMismatch)

/-- The round-trip law (R148): the bytes behind the access code of an encoded frame, cut to any length of at least 8 + len(P),
decode to the payload, for every payload, access code, offset and symbol geometry. -/
def Obligations.RoundTripLaw : Prop :=
  ∀ (alignSamples sps bps : Nat) (P raw : List Byte) (ac : Bits) (off : BitVec 4) (hint : BitVec 24),
    1 ≤ alignSamples → 1 ≤ sps → 1 ≤ bps → 1 ≤ ac.length → ac.length ≤ 64 → P.length ≤ 65535 →
    8 + P.length ≤ raw.length →
    bits raw = ((bits (encodeFrame alignSamples P sps bps ac off)).drop ac.length).take (8 * raw.length) →
    8 + P.length ≤ hint.toNat → decodePacket raw hint = .ok P

/-- Corrupting one byte of the payload, of the trailer, or the PADLEN byte of a packet that decodes gives `CrcMismatch` (R149, its
"In particular" sentence and the two other fields a byte change can reach without touching VER, OFFSET or LENGTH). It rests on the
CRC's polynomial, which is general knowledge G2 of the spec (log entry 8). -/
def Obligations.SingleByteErrorDetected : Prop :=
  ∀ (raw : List Byte) (hint : BitVec 24) (p : List Byte) (k : Nat) (v : Byte),
    decodePacket raw hint = .ok p → k = 1 ∨ 4 ≤ k → k < 8 + p.length → raw[k]? ≠ some v →
    decodePacket (raw.set k v) hint = .fail .crcMismatch

/-- The general claim of R149 (marked there as general knowledge; log entry 17): every change of at most 32 consecutive bits of
header, payload or trailer that keeps VER and LENGTH gives `CrcMismatch`. It is expected to FAIL of the spec's own rules: bits
travel most significant first (R66) while the CRC takes each byte least significant bit first (R136), so 32 consecutive bits can
span up to 40 bits of the CRC's order. -/
def Obligations.EveryBurstOf32BitsDetected : Prop :=
  ∀ (raw raw' : List Byte) (hint : BitVec 24) (p : List Byte) (first : Nat),
    decodePacket raw hint = .ok p → raw'.length = raw.length → raw' ≠ raw →
    (∀ j, j < first ∨ first + 32 ≤ j ∨ 8 * (8 + p.length) ≤ j → (bits raw')[j]? = (bits raw)[j]?) →
    (∀ j, j < 4 ∨ (16 ≤ j ∧ j < 32) → (bits raw')[j]? = (bits raw)[j]?) →
    decodePacket raw' hint = .fail .crcMismatch

/-! ## Host operations and registers (`46_host.md`, `10_state.md`) -/

/-- `NOP` has no effect and completes with `Done`, from any agent, in every state; its record is `00` (R268). -/
def Obligations.NopCompletesWithoutEffect : Prop :=
  encode .nop = [0x00] ∧ ∀ s : State, Answers .nop s .none

/-- `CFG.RD` completes in every mode with the register's value and has no effect (R263); and the values of the configuration registers
(R48, R54), with their reset values. The other registers have statements of their own below. -/
def Obligations.RegisterReadCompletes : Prop :=
  (∀ (s : State) (addr : Byte), Presentable (.cfgRd addr) s → Answers (.cfgRd addr) s (.word (s.regRead addr))) ∧
  (∀ s : State,
    (s.regRead 0x01).toNat = s.cfg.useWo.toNat + 2 * s.cfg.extSink.toNat ∧
    (s.regRead 0x0B).toNat = s.cfg.threshold.toNat ∧ (s.regRead 0x0C).toNat = s.cfg.sps.toNat ∧
    (s.regRead 0x0D).toNat = s.cfg.bps.toNat) ∧
  ∀ b : Build,
    (State.resetWith b).regRead 0x01 = 0 ∧ (State.resetWith b).regRead 0x0B = 12 ∧ (State.resetWith b).regRead 0x0C = 2 ∧
    (State.resetWith b).regRead 0x0D = 1

/-- The STATUS register (R50): each field where the rule puts it, with the numbers of the rule, zero above, zero after reset, and a
write is ignored; `ENC_STATE` is Closed, Draining or Idle as R30 defines it. -/
def Obligations.StatusRegisterFields : Prop :=
  (∀ s : State,
    (s.regRead 0x03).extractLsb' 0 2 = (match s.mode with
      | .setup => 0
      | .run => 1
      | .failed => 2) ∧
    (s.regRead 0x03).extractLsb' 2 2 = (if s.tx.encClosed then 2 else if s.tx.resid ≠ [] then 1 else 0) ∧
    (s.regRead 0x03).extractLsb' 4 3 = (match s.sync.state with
      | .search => 0
      | .header => 1
      | .payload => 2
      | .push => 3
      | .stopped => 4) ∧
    (s.regRead 0x03).extractLsb' 7 3 = (match s.pipe.state with
      | .waitPacket => 0
      | .decoded => 1
      | .waitBlob => 2
      | .filled => 3
      | .stopped => 4) ∧
    (s.regRead 0x03).getLsbD 10 = s.tx.srcClosed ∧
    (s.regRead 0x03).getLsbD 11 = s.queue.closed ∧
    (s.regRead 0x03).getLsbD 12 = s.pool.closed ∧
    (s.regRead 0x03).getLsbD 13 = s.pipe.outMsg.isSome ∧
    (s.regRead 0x03).extractLsb' 14 2 = (match s.pipe.stop with
      | .notStopped => 0
      | .queueClosed => 1
      | .poolClosed => 2) ∧
    (s.regRead 0x03).extractLsb' 16 16 = 0) ∧
  (∀ (s : State) (data : Word), Presentable (.cfgWr 0x03 data) s → Answers (.cfgWr 0x03 data) s .none) ∧
  ∀ b : Build, (State.resetWith b).regRead 0x03 = 0

/-- The registers `ID` (R47), `FAULT` and `FAULT_INFO` (R51), and the build parameters (R40): their values, their values after
reset, and that a write to any of them is ignored. -/
def Obligations.IdentityFaultAndBuildRegisters : Prop :=
  (∀ s : State, s.build.legal →
    s.regRead 0x00 = 0x47580001 ∧
    (s.regRead 0x04).extractLsb' 0 5 = s.fault ∧ (s.regRead 0x04).extractLsb' 5 27 = 0 ∧ s.regRead 0x05 = s.faultInfo ∧
    (s.regRead 0x0E).toNat = s.build.poolSize ∧ (s.regRead 0x0F).toNat = s.build.blobCap ∧
    (s.regRead 0x10).toNat = s.build.queueCap ∧ (s.regRead 0x11).toNat = s.build.alignSamples) ∧
  (∀ (s : State) (addr : Byte) (data : Word),
    addr ∈ ([0x00, 0x04, 0x05, 0x0E, 0x0F, 0x10, 0x11] : List Byte) → Presentable (.cfgWr addr data) s →
    Answers (.cfgWr addr data) s .none) ∧
  (∀ b : Build, (State.resetWith b).regRead 0x00 = 0x47580001 ∧ (State.resetWith b).regRead 0x04 = 0 ∧
    (State.resetWith b).regRead 0x05 = 0) ∧
  State.reset.regRead 0x0E = 64 ∧ State.reset.regRead 0x0F = 10000 ∧ State.reset.regRead 0x10 = 4 ∧
  State.reset.regRead 0x11 = 128

/-- The status registers of R55 in every state that keeps the invariant: their values, and that a write is ignored; their values
after reset. -/
def Obligations.OccupancyAndCounterRegisters : Prop :=
  (∀ s : State, Inv s →
    (s.regRead 0x12).toNat = s.tx.woff.toNat ∧
    (s.tx.resid.length < 16777216 → (s.regRead 0x13).toNat = s.tx.resid.length) ∧
    (s.regRead 0x14).toNat = s.queue.q.length ∧ (s.regRead 0x15).toNat = s.pool.free.length ∧
    (s.regRead 0x16).toNat = s.pipe.decLast.toNat ∧ s.regRead 0x17 = s.tx.cntTx ∧ s.regRead 0x18 = s.pipe.cntOk ∧
    s.regRead 0x19 = s.pipe.cntFail) ∧
  (∀ (s : State) (addr : Byte) (data : Word), 0x12 ≤ addr.toNat → Presentable (.cfgWr addr data) s →
    Answers (.cfgWr addr data) s .none) ∧
  (∀ (s : State) (addr : Byte), 0x1A ≤ addr.toNat → s.regRead addr = 0) ∧
  ∀ b : Build, b.legal → ((State.resetWith b).regRead 0x15).toNat = b.poolSize ∧
    ∀ addr ∈ ([0x12, 0x13, 0x14, 0x16, 0x17, 0x18, 0x19] : List Byte), (State.resetWith b).regRead addr = 0

/-- The access-code readback registers (R53): `AC_LEN` is n in mode RUN and the character count elsewhere, `AC_LO` and `AC_HI` are
the halves of the value in mode RUN and 0 elsewhere; and the write-only registers read 0. -/
def Obligations.AccessCodeReadback : Prop :=
  (∀ s : State, s.mode = .run →
    (s.regRead 0x08).toNat = s.cfg.n.toNat ∧ s.regRead 0x09 = s.cfg.acv.extractLsb' 0 32 ∧
    s.regRead 0x0A = s.cfg.acv.extractLsb' 32 32) ∧
  (∀ s : State, s.mode ≠ .run →
    (s.cfg.acChars.length ≤ 65 → (s.regRead 0x08).toNat = s.cfg.acChars.length) ∧ s.regRead 0x09 = 0 ∧ s.regRead 0x0A = 0) ∧
  (∀ (s : State) (data : Word) (addr : Byte), addr ∈ ([0x08, 0x09, 0x0A] : List Byte) → Presentable (.cfgWr addr data) s →
    Answers (.cfgWr addr data) s .none) ∧
  (∀ (s : State) (addr : Byte), addr ∈ ([0x02, 0x06, 0x07] : List Byte) → s.regRead addr = 0) ∧
  ∀ b : Build, ∀ addr ∈ ([0x08, 0x09, 0x0A] : List Byte), (State.resetWith b).regRead addr = 0

/-- A configuration write in mode SETUP (R261, R23, R25, R26, R48, R52, R54): the field takes the value, an out-of-range value or a
66th character changes nothing, and it completes with `Done`. -/
def Obligations.ConfigurationWriteInSetup : Prop :=
  ∀ (s : State) (data : Word), s.mode = .setup →
    (Presentable (.cfgWr 0x01 data) s →
      exec (.cfgWr 0x01 data) s = .next { s with
        cfg := { s.cfg with useWo := data.getLsbD 0, extSink := data.getLsbD 1 }
        env := s.env.done .done .none }) ∧
    (Presentable (.cfgWr 0x0B data) s →
      exec (.cfgWr 0x0B data) s = .next { s with
        cfg := { s.cfg with threshold := if data.toNat ≤ 64 then BitVec.ofNat 7 data.toNat else s.cfg.threshold }
        env := s.env.done .done .none }) ∧
    (Presentable (.cfgWr 0x0C data) s →
      exec (.cfgWr 0x0C data) s = .next { s with
        cfg := { s.cfg with sps := if 1 ≤ data.toNat ∧ data.toNat ≤ 255 then BitVec.ofNat 8 data.toNat else s.cfg.sps }
        env := s.env.done .done .none }) ∧
    (Presentable (.cfgWr 0x0D data) s →
      exec (.cfgWr 0x0D data) s = .next { s with
        cfg := { s.cfg with bps := if 1 ≤ data.toNat ∧ data.toNat ≤ 8 then BitVec.ofNat 4 data.toNat else s.cfg.bps }
        env := s.env.done .done .none }) ∧
    (Presentable (.cfgWr 0x06 data) s →
      exec (.cfgWr 0x06 data) s = .next { s with
        cfg := { s.cfg with
          acChars := if s.cfg.acChars.length < 65 then s.cfg.acChars ++ [BitVec.ofNat 8 data.toNat] else s.cfg.acChars }
        env := s.env.done .done .none }) ∧
    (Presentable (.cfgWr 0x07 data) s →
      exec (.cfgWr 0x07 data) s = .next { s with
        cfg := { s.cfg with acChars := [] }, env := s.env.done .done .none })

/-- The configuration lock (R264, R285): outside mode SETUP a write to `CTRL`, `THRESHOLD`, `SPS`, `BPS`, `AC_CHAR` or `AC_CLEAR`
changes no configuration, sets fault bit 4, captures 4 and the address if it is the first fault, and completes with `Defect`. Every
other write has no effect and is no fault (R49, R126, R261): `START` with bit 0 = 0 or outside SETUP, the read-only and status
registers, the reserved addresses. -/
def Obligations.LockedAndIgnoredWrites : Prop :=
  (∀ (s : State) (addr : Byte) (data : Word), addr ∈ ([0x01, 0x0B, 0x0C, 0x0D, 0x06, 0x07] : List Byte) → s.mode ≠ .setup →
    Presentable (.cfgWr addr data) s →
    exec (.cfgWr addr data) s = .next { s with
      fault := s.fault ||| 0x10
      faultInfo := if s.fault = 0 then BitVec.ofNat 32 (4 * 16777216 + addr.toNat) else s.faultInfo
      env := s.env.done .defect .none }) ∧
  ∀ (s : State) (addr : Byte) (data : Word), addr ∉ ([0x01, 0x0B, 0x0C, 0x0D, 0x06, 0x07] : List Byte) →
    (addr = 0x02 → data.getLsbD 0 = false ∨ s.mode ≠ .setup) → Presentable (.cfgWr addr data) s →
    Answers (.cfgWr addr data) s .none

/-- The START commit (R266, R281): a valid string commits the code, its length, value and mask and enters RUN; an invalid one raises
fault 0 with the character count and enters FAILED; the write completes with `Done` either way. -/
def Obligations.StartCommit : Prop :=
  ∀ (s : State) (data : Word), s.mode = .setup → data.getLsbD 0 = true → Presentable (.cfgWr 0x02 data) s →
    (∀ code, validateAccessCode s.cfg.acChars = some code →
      exec (.cfgWr 0x02 data) s = .next { s with
        mode := .run
        cfg := { s.cfg with
          ac := code, n := BitVec.ofNat 7 code.length, acv := accessCodeValue code, mask := accessCodeMask code.length }
        env := s.env.done .done .none }) ∧
    (validateAccessCode s.cfg.acChars = none →
      exec (.cfgWr 0x02 data) s = .next { s with
        mode := .failed
        fault := s.fault ||| 0x01
        faultInfo := if s.fault = 0 then BitVec.ofNat 32 (s.cfg.acChars.length % 16777216) else s.faultInfo
        env := s.env.done .done .none })

/-- `SYS.RESET` (R262): every element takes its reset value, the BLOB memory is not cleared, and every outstanding operation is
abandoned. That `pipe_res`, `pipe_blob`, `crc` and `lfsr`, which have no reset value, keep what they hold is the model's choice
(log entry 4), and so is that the bytes of `ENC_BUF` stay (log entry 20). -/
def Obligations.ResetRestoresTheResetState : Prop :=
  ∀ s : State, Presentable .sysReset s →
    exec .sysReset s = .next { State.resetWith s.build with
      tx := Tx.reset s.tx.encBuf
      pool := Pool.reset s.build.poolSize s.pool.mem
      pipe := Pipe.reset s.pipe.res s.pipe.blob
      work := s.work
      env := { s.env with
        pending := [], replies := [{ agent := s.env.agent, requester := none, code := .done, result := .none }] } }

/-- The reset values (R56, R321), for every build. -/
def Obligations.ResetValues : Prop :=
  ∀ b : Build,
    let s := State.resetWith b
    s.mode = .setup ∧ s.fault = 0 ∧ s.faultInfo = 0 ∧ s.faultO = false ∧
    s.cfg.acChars = [] ∧ s.cfg.ac = [] ∧ s.cfg.n = 0 ∧ s.cfg.acv = 0 ∧ s.cfg.mask = 0 ∧ s.cfg.threshold = 12 ∧
    s.cfg.useWo = false ∧ s.cfg.extSink = false ∧ s.cfg.sps = 2 ∧ s.cfg.bps = 1 ∧
    s.tx.srcQ = [] ∧ s.tx.srcClosed = false ∧ s.tx.resid = [] ∧ s.tx.encRd = 0 ∧ s.tx.encEnd = 0 ∧ s.tx.woff = 0 ∧
    s.tx.encClosed = false ∧ s.tx.encState = .idle ∧ s.tx.cntTx = 0 ∧
    s.sync = { state := .search, sr := 0, fill := 0, hdr := 0, hcnt := 0, cap := [], need := 0, acc := 0, bcnt := 0 } ∧
    s.queue = { q := [], closed := false } ∧
    (b.legal → ∀ idx : Index, s.pool.inUse idx = false ∧ s.pool.blen idx = 0) ∧
    s.pool.free.map BitVec.toNat = (List.range b.poolSize).map (· % 65536) ∧ s.pool.waiters = [] ∧ s.pool.closed = false ∧
    s.pipe.state = .waitPacket ∧ s.pipe.stop = .notStopped ∧ s.pipe.outMsg = none ∧ s.pipe.decLast = 0 ∧ s.pipe.cntOk = 0 ∧
    s.pipe.cntFail = 0

/-- Raising a fault (R290, R22): the bit is set, the others stay, and the first fault since reset is captured with its number in
bits 31..24 and its information word in bits 23..0. `fault_o` is 1 exactly while some fault bit is set (R291). -/
def Obligations.RaiseFaultCapturesTheFirst : Prop :=
  (∀ s : State, s.faultO = true ↔ s.fault ≠ 0) ∧
  ∀ (s : State) (F : FaultNumber) (info : BitVec 24),
    s.raiseFault F info = { s with
      fault := s.fault ||| BitVec.ofNat 5 (2 ^ F.bit)
      faultInfo := if s.fault = 0 then BitVec.ofNat 32 (16777216 * F.bit + info.toNat) else s.faultInfo } ∧
    ∀ k < 5, (s.raiseFault F info).fault.getLsbD k = (s.fault.getLsbD k || decide (k = F.bit))

/-! ## The encoder (`41_encoder.md`) -/

/-- `TX.MSG` and `TX.CTRL` in mode RUN: an open source takes the item at its back, a closed one does not and the code is
`SourceClosed` (R160, R161). -/
def Obligations.MessageOffered : Prop :=
  ∀ (s : State) (i : Instr) (item : SrcItem),
    (i = .txCtrl ∧ item = .control) ∨ (∃ p, i = .txMsg p ∧ item = .payload p) → Presentable i s → s.mode = .run →
    (s.tx.srcClosed = false →
      exec i s = .next { s with tx := { s.tx with srcQ := s.tx.srcQ ++ [item] }, env := s.env.done .done .none }) ∧
    (s.tx.srcClosed = true → exec i s = .next { s with env := s.env.done .sourceClosed .none })

/-- `TX.CLOSE`, `Q.CLOSE` in every mode: the flag is set, nothing else changes, `Done` (R162, R204). -/
def Obligations.SourceAndQueueClose : Prop :=
  ∀ s : State,
    (Presentable .txClose s →
      exec .txClose s = .next { s with tx := { s.tx with srcClosed := true }, env := s.env.done .done .none }) ∧
    (Presentable .qClose s →
      exec .qClose s = .next { s with queue := { s.queue with closed := true }, env := s.env.done .done .none })

/-- `TX.PULL` in state Idle with a payload offered (R163): the first payload is framed with the present offset, the Control items
before it are dropped, the frame is counted, the offset advances with rotation on, and min(cap, length) bytes leave. -/
def Obligations.PullFramesTheNextMessage : Prop :=
  ∀ (s : State) (cap : BitVec 24) (cs rest : List SrcItem) (p : List Byte),
    Presentable (.txPull cap) s → s.mode = .run → s.tx.encClosed = false → s.tx.resid = [] → (∀ c ∈ cs, c = .control) →
    s.tx.srcQ = cs ++ .payload p :: rest →
    let frame := encodeFrame s.build.alignSamples p s.cfg.sps.toNat s.cfg.bps.toNat s.cfg.ac s.tx.woff
    let k := min cap.toNat frame.length
    exec (.txPull cap) s = .next { s with
      tx := { s.tx with
        srcQ := rest, encBuf := frame ++ s.tx.encBuf.drop frame.length, encRd := k, encEnd := frame.length
        cntTx := s.tx.cntTx + 1, woff := if s.cfg.useWo then s.tx.woff + 1 else s.tx.woff }
      env := s.env.done .done (.pull (BitVec.ofNat 24 k) false (frame.take k)) }

/-- `TX.PULL` while a frame remains (R163, R61): min(cap, len(resid)) bytes leave from the front, and the cursor moves past them.
At the end (R163, R296): a closed encoder, or an idle one whose closed source holds no payload, answers `SourceClosed` with k = 0 and
done = 1, and the latter drops the Control items left and closes the encoder. -/
def Obligations.PullDrainsThenSignalsTheEnd : Prop :=
  (∀ (s : State) (cap : BitVec 24), Presentable (.txPull cap) s → s.mode = .run → s.tx.encClosed = false → s.tx.resid ≠ [] →
    let k := min cap.toNat s.tx.resid.length
    exec (.txPull cap) s = .next { s with
      tx := { s.tx with encRd := s.tx.encRd + k }
      env := s.env.done .done (.pull (BitVec.ofNat 24 k) false (s.tx.resid.take k)) } ∧
    ({ s.tx with encRd := s.tx.encRd + k } : Tx).resid = s.tx.resid.drop k) ∧
  ∀ (s : State) (cap : BitVec 24), Presentable (.txPull cap) s → s.mode = .run →
    (s.tx.encClosed = true →
      exec (.txPull cap) s = .next { s with env := s.env.done .sourceClosed (.pull 0 true []) }) ∧
    (s.tx.encClosed = false → s.tx.resid = [] → (∀ c ∈ s.tx.srcQ, c = .control) → s.tx.srcClosed = true →
      exec (.txPull cap) s = .next { s with
        tx := { s.tx with srcQ := [], encClosed := true }
        env := s.env.done .sourceClosed (.pull 0 true []) })

/-- The stream law (R167, R77): whatever the capacities, the bytes of completed pulls are the next bytes of the frames of the
offered messages in arrival order, and all of them once the encoder is closed. -/
def Obligations.StreamLaw : Prop :=
  ∀ (s t : State) (caps : List (BitVec 24)) (data : List Byte), pullAll caps s = some (data, t) →
    data ++ t.outgoing = s.outgoing ∧ (TxInv s → t.tx.encClosed = true → data = s.outgoing)

/-- Offset rotation (R164): in every state that keeps the invariant the offset that frames the next message is the number of frames
built since reset mod 16 with rotation on, and 0 with it off; and it is what the frame's OFFSET field holds. -/
def Obligations.OffsetRotation : Prop :=
  ∀ (s : State) (p : List Byte), Inv s → s.mode = .run → p.length ≤ 65535 →
    let off : BitVec 4 := if s.cfg.useWo then BitVec.ofNat 4 s.tx.cntTx.toNat else 0
    let frame := encodeFrame s.build.alignSamples p s.cfg.sps.toNat s.cfg.bps.toNat s.cfg.ac s.tx.woff
    s.tx.woff = off ∧
    ((bits frame).drop (s.cfg.n.toNat + 4)).take 4 = [off.getLsbD 3, off.getLsbD 2, off.getLsbD 1, off.getLsbD 0]

/-! ## The Sync unit (`42_sync.md`) -/

/-- `RX.BIT` with `ext_sink` = 1 or in state Stopped: the bit is accepted and discarded (R182). In state Search (R182, R183): the
bit enters the shift register, and once n bits have entered since Search was entered a match within the threshold starts the
header. -/
def Obligations.BitDiscardedOrSearched : Prop :=
  (∀ (s : State) (b : Bool), Presentable (.rxBit b) s → s.mode = .run → s.sync.state ≠ .push →
    s.cfg.extSink = true ∨ s.sync.state = .stopped → Answers (.rxBit b) s .none) ∧
  ∀ (s : State) (b : Bool), Presentable (.rxBit b) s → s.mode = .run → s.cfg.extSink = false → s.sync.state = .search →
    let sr : BitVec 64 := (s.sync.sr <<< 1) ||| BitVec.ofNat 64 b.toNat
    let fill := min (s.sync.fill.toNat + 1) 64
    exec (.rxBit b) s = .next { s with
      sync :=
        if s.cfg.n.toNat ≤ fill ∧ popcount ((sr ^^^ s.cfg.acv) &&& s.cfg.mask) ≤ s.cfg.threshold.toNat then
          { s.sync with sr := sr, fill := BitVec.ofNat 7 fill, hdr := 0, hcnt := 0, state := .header }
        else { s.sync with sr := sr, fill := BitVec.ofNat 7 fill }
      env := s.env.done .done .none }

/-- `RX.BIT` in state Header (R182, R184): 32 bits are collected; then a VER other than 1 sends the unit back to Search, and VER 1
starts the capture of 8 + LENGTH bytes with the four header bytes. -/
def Obligations.BitInHeader : Prop :=
  ∀ (s : State) (b : Bool), Presentable (.rxBit b) s → s.mode = .run → s.cfg.extSink = false → s.sync.state = .header →
    let hdr : BitVec 32 := (s.sync.hdr <<< 1) ||| BitVec.ofNat 32 b.toNat
    exec (.rxBit b) s = .next { s with
      sync :=
        if s.sync.hcnt + 1 ≠ 32 then { s.sync with hdr := hdr, hcnt := s.sync.hcnt + 1 }
        else if hdr.toNat / 268435456 ≠ 1 then { s.sync with hdr := hdr, hcnt := 32, fill := 0, state := .search }
        else
          { s.sync with
            hdr := hdr, hcnt := 32
            cap := [hdr.extractLsb' 24 8, hdr.extractLsb' 16 8, hdr.extractLsb' 8 8, hdr.extractLsb' 0 8]
            need := BitVec.ofNat 17 (8 + hdr.toNat % 65536), acc := 0, bcnt := 0, state := .payload }
      env := s.env.done .done .none }

/-- `RX.BIT` in state Payload (R182, R181): eight bits make a byte of the capture; the complete capture goes to an open queue with
room, is held in state Push when the queue is full, and is discarded with the unit stopped when the queue is closed. -/
def Obligations.BitInPayload : Prop :=
  ∀ (s : State) (b : Bool), Presentable (.rxBit b) s → s.mode = .run → s.cfg.extSink = false → s.sync.state = .payload →
    let acc : Byte := (s.sync.acc <<< 1) ||| BitVec.ofNat 8 b.toNat
    let cap := s.sync.cap ++ [acc]
    let env := s.env.done .done .none
    (s.sync.bcnt + 1 ≠ 8 →
      exec (.rxBit b) s = .next { s with sync := { s.sync with acc := acc, bcnt := s.sync.bcnt + 1 }, env := env }) ∧
    (s.sync.bcnt + 1 = 8 → cap.length ≠ s.sync.need.toNat →
      exec (.rxBit b) s = .next { s with sync := { s.sync with cap := cap, acc := 0, bcnt := 0 }, env := env }) ∧
    (s.sync.bcnt + 1 = 8 → cap.length = s.sync.need.toNat →
      (s.queue.closed = true →
        exec (.rxBit b) s = .next { s with
          sync := { s.sync with cap := [], acc := 0, bcnt := 0, state := .stopped }, env := env }) ∧
      (s.queue.closed = false → s.queue.q.length < s.build.queueCap →
        exec (.rxBit b) s = .next { s with
          sync := { s.sync with cap := [], acc := 0, bcnt := 0, fill := 0, state := .search }
          queue := { s.queue with q := s.queue.q ++ [{ bytes := cap, length := BitVec.ofNat 24 s.sync.need.toNat }] }
          env := env }) ∧
      (s.queue.closed = false → s.build.queueCap ≤ s.queue.q.length →
        exec (.rxBit b) s = .next { s with
          sync := { s.sync with cap := cap, acc := 0, bcnt := 0, state := .push }, env := env }))

/-- `SYNC.PUSH` when enabled (R186, R181): the held packet goes to the queue and the unit to Search, or, the queue being closed, the
packet is discarded and the unit stops. -/
def Obligations.PushRetriesTheEnqueue : Prop :=
  ∀ s : State, Presentable .syncPush s → s.mode = .run → s.sync.state = .push →
    (s.queue.closed = true →
      exec .syncPush s = .next { s with
        sync := { s.sync with cap := [], state := .stopped }, env := s.env.done .done .none }) ∧
    (s.queue.closed = false → s.queue.q.length < s.build.queueCap →
      exec .syncPush s = .next { s with
        sync := { s.sync with cap := [], fill := 0, state := .search }
        queue := { s.queue with q := s.queue.q ++ [{ bytes := s.sync.cap, length := BitVec.ofNat 24 s.sync.need.toNat }] }
        env := s.env.done .done .none })

/-- The deframer front end (R188): when the bits of an encoded frame, up to its last core bit, are presented to a unit in Search
with an open queue that has room, and no earlier window of them matches, then exactly one RawPacket has been enqueued, it decodes
to the payload, the unit is back in Search, and nothing outside the Sync unit, the queue and the environment has changed. -/
def Obligations.FrameIsDelimited : Prop :=
  ∀ (s : State) (p : List Byte) (off : BitVec 4) (sps bps : Nat),
    Inv s → s.mode = .run → s.cfg.extSink = false → s.sync.state = .search → s.queue.closed = false →
    s.queue.q.length < s.build.queueCap → s.env.pending = [] → p.length ≤ 65535 → 1 ≤ sps → 1 ≤ bps →
    let frame := encodeFrame s.build.alignSamples p sps bps s.cfg.ac off
    let core := (bits frame).take (s.cfg.n.toNat + 64 + 8 * p.length)
    let shift : Nat → BitVec 64 := fun k =>
      (core.take k).foldl (fun sr b => (sr <<< 1) ||| BitVec.ofNat 64 b.toNat) s.sync.sr
    (∀ k, 1 ≤ k → k < s.cfg.n.toNat → s.cfg.n.toNat ≤ s.sync.fill.toNat + k → acMatch s.cfg (shift k) = false) →
    ∃ (t : State) (rp : RawPacket),
      presentBits core s = .next t ∧ t.queue = { s.queue with q := s.queue.q ++ [rp] } ∧
      rp.bytes.length = 8 + p.length ∧ rp.length.toNat = 8 + p.length ∧ decodePacket rp.bytes rp.length = .ok p ∧
      t.sync.state = .search ∧ t.sync.fill = 0 ∧ t.sync.cap = [] ∧
      { t with sync := s.sync, queue := s.queue, env := s.env } = s

/-! ## The queue (`43_queue.md`) -/

/-- `Q.ENQ` in mode RUN (R202): an open queue with room takes the packet at its back, a closed one does not and the code is
`QueueClosed`, also for a `Q.ENQ` that waited and is attempted again when `ext_sink` has been cleared meanwhile (R12, C10; log entry
19). `Q.DEQ` (R203): the oldest packet leaves and is returned, or the closed and empty queue answers `QueueClosed`. That its
record stands for the `PIPE.FETCH` it is part of (R241), with its enabling condition and its effect, is the model's reading (log entry
10). -/
def Obligations.QueueIsFirstInFirstOut : Prop :=
  (∀ (s : State) (length : BitVec 24) (bytes : List Byte), Presentable (.qEnq length bytes) s → s.mode = .run →
    (s.cfg.extSink = true → s.queue.closed = false → s.queue.q.length < s.build.queueCap →
      exec (.qEnq length bytes) s = .next { s with
        queue := { s.queue with q := s.queue.q ++ [{ bytes := bytes, length := length }] }
        env := s.env.done .done .none }) ∧
    (s.cfg.extSink = true ∨ s.env.again = true → s.queue.closed = true →
      exec (.qEnq length bytes) s = .next { s with env := s.env.done .queueClosed .none })) ∧
  ∀ s : State, Presentable .qDeq s → s.mode = .run → s.pipe.state = .waitPacket →
    (∀ rp rest, s.queue.q = rp :: rest →
      exec .qDeq s = .next { s with
        queue := { s.queue with q := rest }
        pipe := { s.pipe with
          res := decodePacket rp.bytes rp.length, state := .decoded, decLast := (decodePacket rp.bytes rp.length).code }
        env := s.env.done .done (.packet rp) }) ∧
    (s.queue.q = [] → s.queue.closed = true →
      exec .qDeq s = .next { s with
        pipe := { s.pipe with state := .stopped, stop := .queueClosed }, env := s.env.done .queueClosed .none })

/-! ## The pool (`44_pool.md`) -/

/-- The acquires of an external requester in mode RUN (R216, R217): `PoolClosed` on a closed pool; else the front of the free list,
which becomes in use; else the blocking form joins the waiters with no completion, and the other answers `Empty`. -/
def Obligations.ExternalAcquire : Prop :=
  ∀ (s : State) (r : ReqId) (i : Instr), i = .poolAcq r ∨ i = .poolAcqnb r → Presentable i s → s.mode = .run → r ≠ 0 →
    r.toNat < s.build.reqIds → r ∉ s.pool.waiters →
    (s.pool.closed = true → exec i s = .next { s with env := s.env.doneFor r .poolClosed .none }) ∧
    (∀ idx rest, s.pool.closed = false → s.pool.free = idx :: rest →
      exec i s = .next { s with
        pool := { s.pool with
          free := rest, blobs := s.pool.blobs.set idx.toNat { inuse := true, len := s.pool.blen idx } }
        env := s.env.doneFor r .done (.index idx) }) ∧
    (s.pool.closed = false → s.pool.free = [] →
      (i = .poolAcq r →
        exec i s = .next { s with
          pool := { s.pool with waiters := s.pool.waiters ++ [r] }, env := s.env.answered [] }) ∧
      (i = .poolAcqnb r → exec i s = .next { s with env := s.env.doneFor r .empty .none }))

/-- `POOL.REL` in mode RUN (R218, R222, R283, R284). An index that names no Blob raises fault 3, a free Blob raises fault 2, each
with the index as information word, and completes with `Defect`; the pool is unchanged. With nobody waiting the Blob's length becomes
0 and the Blob joins the back of the free list; with an external requester waiting first it stays in use with length 0 and is handed
over, the waiter's completion before the release's own (R220; the order is log entry 15's reading of it). -/
def Obligations.ReleaseFaultsFreesOrHandsOver : Prop :=
  (∀ (s : State) (idx : Index), Presentable (.poolRel idx) s → s.mode = .run →
    (s.build.poolSize ≤ idx.toNat →
      exec (.poolRel idx) s = .next { s with
        fault := s.fault ||| 0x08
        faultInfo := if s.fault = 0 then BitVec.ofNat 32 (3 * 16777216 + idx.toNat) else s.faultInfo
        env := s.env.done .defect .none }) ∧
    (idx.toNat < s.build.poolSize → s.pool.inUse idx = false →
      exec (.poolRel idx) s = .next { s with
        fault := s.fault ||| 0x04
        faultInfo := if s.fault = 0 then BitVec.ofNat 32 (2 * 16777216 + idx.toNat) else s.faultInfo
        env := s.env.done .defect .none })) ∧
  ∀ (s : State) (idx : Index), Presentable (.poolRel idx) s → s.mode = .run → idx.toNat < s.build.poolSize →
    s.pool.inUse idx = true →
    (s.pool.waiters = [] →
      exec (.poolRel idx) s = .next { s with
        pool := { s.pool with
          blobs := s.pool.blobs.set idx.toNat { inuse := false, len := 0 }, free := s.pool.free ++ [idx] }
        env := s.env.done .done .none }) ∧
    (∀ r rs, s.pool.waiters = r :: rs → r ≠ 0 →
      exec (.poolRel idx) s = .next { s with
        pool := { s.pool with blobs := s.pool.blobs.set idx.toNat { inuse := true, len := 0 }, waiters := rs }
        env := s.env.answered
          [{ agent := .appRx, requester := some r, code := .done, result := .index idx },
            { agent := s.env.agent, requester := none, code := .done, result := .none }] })

/-- A release with the pipeline waiting first (R218, R220, R243): a payload that fits is copied into the Blob, which the pipeline
then holds in state Filled; one that does not raises fault 1 with its length, and the Blob goes on to the next waiter or to the
free list, the pipeline to WaitPacket. -/
def Obligations.ReleaseServesThePipeline : Prop :=
  ∀ (s : State) (idx : Index) (rs : List ReqId) (p : List Byte), Presentable (.poolRel idx) s → s.mode = .run →
    idx.toNat < s.build.poolSize → s.pool.inUse idx = true → s.pool.waiters = 0 :: rs → s.pipe.res = .ok p →
    (p.length ≤ s.build.blobCap →
      exec (.poolRel idx) s = .next { s with
        pool := { s.pool with
          mem := s.pool.mem.writeBytes (blobAddr idx 0) p
          blobs := s.pool.blobs.set idx.toNat { inuse := true, len := BitVec.ofNat 16 p.length }, waiters := rs }
        pipe := { s.pipe with blob := (idx, BitVec.ofNat 16 p.length), state := .filled }
        env := s.env.done .done .none }) ∧
    (s.build.blobCap < p.length → p.length ≤ 65535 →
      let fault := s.fault ||| 0x02
      let info := if s.fault = 0 then BitVec.ofNat 32 (16777216 + p.length) else s.faultInfo
      (rs = [] →
        exec (.poolRel idx) s = .next { s with
          fault := fault, faultInfo := info
          pool := { s.pool with
            blobs := s.pool.blobs.set idx.toNat { inuse := false, len := 0 }, free := s.pool.free ++ [idx], waiters := [] }
          pipe := { s.pipe with state := .waitPacket }
          env := s.env.done .done .none }) ∧
      (∀ r rs', rs = r :: rs' → r ≠ 0 →
        exec (.poolRel idx) s = .next { s with
          fault := fault, faultInfo := info
          pool := { s.pool with blobs := s.pool.blobs.set idx.toNat { inuse := true, len := 0 }, waiters := rs' }
          pipe := { s.pipe with state := .waitPacket }
          env := s.env.answered
            [{ agent := .appRx, requester := some r, code := .done, result := .index idx },
              { agent := s.env.agent, requester := none, code := .done, result := .none }] }))

/-- `POOL.CLOSE` in every mode (R219, R244): the pool is closed and has no waiters; the pipeline, if it waited, stops with reason 2;
every other waiter's acquire completes with `PoolClosed`, oldest first. -/
def Obligations.PoolCloseWakesAllWaiters : Prop :=
  ∀ s : State, Presentable .poolClose s →
    exec .poolClose s = .next { s with
      pool := { s.pool with closed := true, waiters := [] }
      pipe := if 0 ∈ s.pool.waiters then { s.pipe with state := .stopped, stop := .poolClosed } else s.pipe
      env := s.env.answered
        ((s.pool.waiters.filter (· ≠ 0)).map
            (fun r => { agent := .appRx, requester := some r, code := .poolClosed, result := .index 0 }) ++
          [{ agent := s.env.agent, requester := none, code := .done, result := .none }]) }

/-- A Blob copy (R221): the payload reads back from byte 0 on, the length is the payload's, and every other byte, length and in-use
bit is as it was. -/
def Obligations.BlobCopyReadsBack : Prop :=
  ∀ (pool : Pool) (idx : Index) (p : List Byte), idx.toNat < pool.blobs.length → p.length ≤ 65535 →
    (∀ (k : Nat) (h : k < p.length), (pool.blobCopy idx p).mem.read (blobAddr idx k) = some p[k]) ∧
    ((pool.blobCopy idx p).blen idx).toNat = p.length ∧
    (∀ (j : Index) (k : Nat), k < 65536 → j ≠ idx ∨ p.length ≤ k →
      (pool.blobCopy idx p).mem.read (blobAddr j k) = pool.mem.read (blobAddr j k)) ∧
    (∀ j : Index, j ≠ idx → (pool.blobCopy idx p).blen j = pool.blen j) ∧
    (∀ j : Index, (pool.blobCopy idx p).inUse j = pool.inUse j) ∧ (pool.blobCopy idx p).free = pool.free

/-- The Blob reads in mode RUN (R226, R227): in the specified case the byte last written, and `blen[idx]` for an index that names a
Blob. Outside it the operation completes with `Done` and some value, which no statement fixes (U2, U4; the counter `draws` is the
model's own, log entry 6). -/
def Obligations.BlobReads : Prop :=
  (∀ (s : State) (idx : Index) (off : BitVec 16), Presentable (.blobRd idx off) s → s.mode = .run →
    (∀ v, idx.toNat < s.build.poolSize → s.pool.inUse idx = true → off.toNat < (s.pool.blen idx).toNat →
      s.pool.mem.read (blobAddr idx off.toNat) = some v → Answers (.blobRd idx off) s (.byte v)) ∧
    (s.build.poolSize ≤ idx.toNat ∨ s.pool.inUse idx = false ∨ (s.pool.blen idx).toNat ≤ off.toNat →
      ∃ v, exec (.blobRd idx off) s = .next { s with
        env := { s.env.done .done (.byte v) with draws := s.env.draws + 1 } })) ∧
  ∀ (s : State) (idx : Index), Presentable (.blobLen idx) s → s.mode = .run →
    (idx.toNat < s.build.poolSize → Answers (.blobLen idx) s (.length (s.pool.blen idx))) ∧
    (s.build.poolSize ≤ idx.toNat →
      ∃ v, exec (.blobLen idx) s = .next { s with
        env := { s.env.done .done (.length v) with draws := s.env.draws + 1 } })

/-! ## The pipeline (`45_pipeline.md`) -/

/-- `PIPE.FETCH` when enabled (R241): the oldest packet is dequeued and decoded, the result and its code are kept; or the closed and
empty queue stops the pipeline with reason 1. -/
def Obligations.FetchDecodesTheOldest : Prop :=
  ∀ s : State, Presentable .pipeFetch s → s.mode = .run → s.pipe.state = .waitPacket →
    (∀ rp rest, s.queue.q = rp :: rest →
      exec .pipeFetch s = .next { s with
        queue := { s.queue with q := rest }
        pipe := { s.pipe with
          res := decodePacket rp.bytes rp.length, state := .decoded
          decLast := match decodePacket rp.bytes rp.length with
            | .ok _ => 1
            | .fail .tooShort => 2
            | .fail .badVersion => 3
            | .fail .lengthInconsistent => 4
            | .fail .crcMismatch => 5 }
        env := s.env.done .done .none }) ∧
    (s.queue.q = [] → s.queue.closed = true →
      exec .pipeFetch s = .next { s with
        pipe := { s.pipe with state := .stopped, stop := .queueClosed }, env := s.env.done .done .none })

/-- `PIPE.ACQUIRE` when enabled (R242, R220, R282), and the record of the pipeline's own `POOL.ACQ 0`, which the model carries out in
the same way (log entry 12): the four outcomes. -/
def Obligations.PipelineAcquire : Prop :=
  ∀ (s : State) (i : Instr) (p : List Byte), i = .pipeAcquire ∨ (i = .poolAcq 0 ∧ 1 ≤ s.build.reqIds) → Presentable i s →
    s.mode = .run → s.pipe.state = .decoded → s.pipe.res = .ok p →
    (s.pool.closed = true →
      exec i s = .next { s with
        pipe := { s.pipe with state := .stopped, stop := .poolClosed }, env := s.env.done .done .none }) ∧
    (s.pool.closed = false → s.pool.free = [] →
      exec i s = .next { s with
        pool := { s.pool with waiters := s.pool.waiters ++ [0] }, pipe := { s.pipe with state := .waitBlob }
        env := s.env.done .done .none }) ∧
    (∀ idx rest, s.pool.closed = false → s.pool.free = idx :: rest → p.length ≤ s.build.blobCap →
      exec i s = .next { s with
        pool := { s.pool with
          mem := s.pool.mem.writeBytes (blobAddr idx 0) p, free := rest
          blobs := s.pool.blobs.set idx.toNat { inuse := true, len := BitVec.ofNat 16 p.length } }
        pipe := { s.pipe with blob := (idx, BitVec.ofNat 16 p.length), state := .filled }
        env := s.env.done .done .none }) ∧
    (∀ idx rest, s.pool.closed = false → s.pool.free = idx :: rest → s.pool.waiters = [] → s.build.blobCap < p.length →
      p.length ≤ 65535 →
      exec i s = .next { s with
        fault := s.fault ||| 0x02
        faultInfo := if s.fault = 0 then BitVec.ofNat 32 (16777216 + p.length) else s.faultInfo
        pool := { s.pool with
          free := rest ++ [idx], blobs := s.pool.blobs.set idx.toNat { inuse := false, len := 0 } }
        pipe := { s.pipe with state := .waitPacket }
        env := s.env.done .done .none })

/-- `PIPE.EMIT` when enabled (R245): the message of the Blob held, or `Fail`, goes to the empty output register and is counted.
`RX.TAKE` when enabled (R249): the message leaves the output register; the stopped pipeline with none left answers the reason it
stopped for. -/
def Obligations.MessageEmittedAndTaken : Prop :=
  (∀ s : State, Presentable .pipeEmit s → s.mode = .run → s.pipe.outMsg = none →
    (s.pipe.state = .filled →
      exec .pipeEmit s = .next { s with
        pipe := { s.pipe with
          outMsg := some (.ok s.pipe.blob.1 s.pipe.blob.2), cntOk := s.pipe.cntOk + 1, state := .waitPacket }
        env := s.env.done .done .none }) ∧
    (∀ f, s.pipe.state = .decoded → s.pipe.res = .fail f →
      exec .pipeEmit s = .next { s with
        pipe := { s.pipe with outMsg := some .fail, cntFail := s.pipe.cntFail + 1, state := .waitPacket }
        env := s.env.done .done .none })) ∧
  ∀ s : State, Presentable .rxTake s → s.mode = .run →
    (∀ m, s.pipe.outMsg = some m →
      exec .rxTake s = .next { s with pipe := { s.pipe with outMsg := none }, env := s.env.done .done (.message m) }) ∧
    (s.pipe.outMsg = none → s.pipe.state = .stopped →
      (s.pipe.stop = .queueClosed → exec .rxTake s = .next { s with env := s.env.done .queueClosed .none }) ∧
      (s.pipe.stop = .poolClosed → exec .rxTake s = .next { s with env := s.env.done .poolClosed .none }))

/-- Delivery (the safety part of R250, and R79): a queued packet that decodes to a payload that fits a Blob, fetched, given a Blob,
emitted and taken, is taken as `Ok` with a Blob from which every byte of the payload is then read, the application having no other
operation outstanding on the ports `out` and `blob` (R335). -/
def Obligations.PayloadIsDelivered : Prop :=
  ∀ (s : State) (rp : RawPacket) (rest : List RawPacket) (p : List Byte),
    Inv s → s.mode = .run → s.pipe.state = .waitPacket → s.pipe.outMsg = none → s.pool.closed = false → s.pool.free ≠ [] →
    s.queue.q = rp :: rest → decodePacket rp.bytes rp.length = .ok p → p.length ≤ s.build.blobCap →
    (∀ rq ∈ s.env.pending, portOf rq.instr ≠ some .out ∧ portOf rq.instr ≠ some .blob) →
    ∃ (t : State) (idx : Index),
      runOps [(.pipe, .pipeFetch), (.pipe, .pipeAcquire), (.pipe, .pipeEmit), (.appRx, .rxTake)] s = .next t ∧
      t.env.replies =
        [{ agent := .appRx, requester := none, code := .done, result := .message (.ok idx (BitVec.ofNat 16 p.length)) }] ∧
      t.queue.q = rest ∧
      ∀ (k : Nat) (h : k < p.length), Answers (.blobRd idx (BitVec.ofNat 16 k)) t (.byte p[k])

/-! ## The whole machine -/

/-- An operation that is not enabled blocks: the block's state is as it was, nothing is returned, and only the issuer's request is
recorded (R45). Every operation that must wait is listed with the condition under which it waits (R163, R182, R186, R202, R203,
R216, R217, R241, R242, R245, R249, R267). That a `Q.DEQ` record blocks as the `PIPE.FETCH` it is part of does, and a `POOL.ACQ 0`
record as the `PIPE.ACQUIRE` it is part of, is the model's reading (log entries 10 and 12), and that a `Q.ENQ` whose `ext_sink` has
been cleared waits while the queue is open is its choice (log entry 19; R127 refuses to have it issued so). -/
def Obligations.BlockedOperationHasNoEffect : Prop :=
  ∀ (s : State) (i : Instr), Presentable i s → s.operandRefusal i = none →
    (dataPlane i = true ∧ s.mode ≠ .run) ∨
    ((∃ cap, i = .txPull cap) ∧ s.tx.encClosed = false ∧ s.tx.resid = [] ∧ (∀ c ∈ s.tx.srcQ, c = .control) ∧
      s.tx.srcClosed = false) ∨
    ((∃ b, i = .rxBit b) ∧ s.sync.state = .push) ∨
    (i = .syncPush ∧ (s.sync.state ≠ .push ∨ (s.queue.closed = false ∧ s.build.queueCap ≤ s.queue.q.length))) ∨
    ((∃ length bytes, i = .qEnq length bytes) ∧ s.queue.closed = false ∧
      (s.build.queueCap ≤ s.queue.q.length ∨ s.cfg.extSink = false)) ∨
    ((i = .pipeFetch ∨ i = .qDeq) ∧ (s.pipe.state ≠ .waitPacket ∨ (s.queue.closed = false ∧ s.queue.q = []))) ∨
    ((i = .pipeAcquire ∨ i = .poolAcq 0) ∧ (s.pipe.state ≠ .decoded ∨ ∃ f, s.pipe.res = .fail f)) ∨
    (i = .pipeEmit ∧ (s.pipe.outMsg ≠ none ∨
      (s.pipe.state ≠ .filled ∧ (s.pipe.state ≠ .decoded ∨ ∃ p, s.pipe.res = .ok p)))) ∨
    (i = .rxTake ∧ s.pipe.outMsg = none ∧ s.pipe.state ≠ .stopped) →
    Blocks i s

/-- Only reset clears a fault bit, and the captured first fault stays (R21, R22, R290, R315). -/
def Obligations.FaultsAreSticky : Prop :=
  ∀ (s t : State) (i : Instr), i ≠ .sysReset → exec i s = .next t →
    s.fault &&& t.fault = s.fault ∧ (s.fault ≠ 0 → t.faultInfo = s.faultInfo)

/-- The modes (R317, R20): RUN and FAILED are left only by reset, SETUP only by reset or by a START write with bit 0 = 1, to RUN with
a valid access code and to FAILED with an invalid one. The configuration (R264, R82): outside mode SETUP no operation but reset
changes any of it, and no operation ever changes the build parameters. -/
def Obligations.ModeAndConfigurationAreFrozen : Prop :=
  (∀ (s t : State) (i : Instr), i ≠ .sysReset → exec i s = .next t →
    (s.mode ≠ .setup → t.mode = s.mode) ∧
    (t.mode ≠ s.mode → (∃ data, i = .cfgWr 0x02 data ∧ data.getLsbD 0 = true) ∧ s.mode = .setup ∧
      t.mode = if (validateAccessCode s.cfg.acChars).isSome then .run else .failed)) ∧
  ∀ (s t : State) (i : Instr), exec i s = .next t →
    t.build = s.build ∧ (i ≠ .sysReset → s.mode ≠ .setup → t.cfg = s.cfg)

/-- The closed flags, the closed encoder and the stopped units are left only by reset, and a stopped pipeline dequeues nothing
(R201, R215 d, R30, R187, R247, R336 a, R315). -/
def Obligations.ClosedAndStoppedAreTerminal : Prop :=
  ∀ (s t : State) (i : Instr), i ≠ .sysReset → exec i s = .next t →
    (s.tx.srcClosed = true → t.tx.srcClosed = true) ∧ (s.tx.encClosed = true → t.tx.encClosed = true) ∧
    (s.queue.closed = true → t.queue.closed = true ∧ t.queue.q.length ≤ s.queue.q.length) ∧
    (s.pool.closed = true → t.pool.closed = true) ∧
    (s.sync.state = .stopped → t.sync = s.sync) ∧
    (0 ∉ s.pool.waiters → s.pipe.state = .stopped → 
      t.pipe.state = .stopped ∧ t.pipe.stop = s.pipe.stop ∧ ∃ l, t.queue.q = s.queue.q ++ l)

/-- The two halves share no mutable state (R319): an operation of the transmit half changes nothing of the receive half, an
operation of the receive half changes nothing of the transmit half, and neither half's operations read the other's state: from two
states that agree on the build, the mode, the configuration, the environment and their own half they answer states that agree on
their own half and on the completions returned. The two closes of the host that act on the receive half, `Q.CLOSE` and `POOL.CLOSE`,
are among its operations. -/
def Obligations.HalvesAreIndependent : Prop :=
  (∀ (s t : State) (i : Instr), issuerOf i = .appTx ∨ issuerOf i = .mod → exec i s = .next t →
    t.sync = s.sync ∧ t.queue = s.queue ∧ t.pool = s.pool ∧ t.pipe = s.pipe ∧ t.fault = s.fault ∧ t.faultInfo = s.faultInfo) ∧
  (∀ (s t : State) (i : Instr),
    i ∈ [.qClose, .poolClose] ∨ issuerOf i = .demod ∨ issuerOf i = .appRx ∨ issuerOf i = .sync ∨ issuerOf i = .pipe →
    exec i s = .next t → t.tx = s.tx) ∧
  (∀ (s s' t : State) (i : Instr), issuerOf i = .appTx ∨ issuerOf i = .mod → s'.build = s.build → s'.mode = s.mode →
    s'.cfg = s.cfg → s'.env = s.env → s'.tx = s.tx → exec i s = .next t →
    ∃ t', exec i s' = .next t' ∧ t'.tx = t.tx ∧ t'.env = t.env) ∧
  (∀ (s s' t : State) (i : Instr),
    i ∈ [.qClose, .poolClose] ∨ issuerOf i = .demod ∨ issuerOf i = .appRx ∨ issuerOf i = .sync ∨ issuerOf i = .pipe →
    s'.build = s.build → s'.mode = s.mode → s'.cfg = s.cfg → s'.env = s.env → s'.sync = s.sync → s'.queue = s.queue →
    s'.pool = s.pool → s'.pipe = s.pipe → exec i s = .next t →
    ∃ t', exec i s' = .next t' ∧ t'.sync = t.sync ∧ t'.queue = t.queue ∧ t'.pool = t.pool ∧ t'.pipe = t.pipe ∧ t'.env = t.env)

/-- Blob ownership (R83, R64): in every state that keeps the invariant, a Blob in use stays in use with its length and its bytes until
a `POOL.REL` names it or the block is reset. -/
def Obligations.BlobInUseIsStable : Prop :=
  ∀ (s t : State) (i : Instr) (idx : Index), Inv s → s.pool.inUse idx = true → i ≠ .poolRel idx → i ≠ .sysReset →
    exec i s = .next t →
    t.pool.inUse idx = true ∧ t.pool.blen idx = s.pool.blen idx ∧
    ∀ k < 65536, t.pool.mem.read (blobAddr idx k) = s.pool.mem.read (blobAddr idx k)

/-- Conservation (R229, R215 a): in every state that keeps the invariant the Blobs in use and the free Blobs are N together. -/
def Obligations.BlobsAreConserved : Prop :=
  ∀ s : State, Inv s → s.pool.blobs.countP (·.inuse) + s.pool.free.length = s.build.poolSize

/-- The invariant holds after reset, for every legal build. The values of the registers without a reset value are the model's (log
entry 4). -/
def Obligations.InvariantHoldsAfterReset : Prop :=
  ∀ b : Build, b.legal → Inv (State.resetWith b)

/-- Every step keeps the invariant: the build legal, the configuration in range and committed only in RUN, FAILED exactly with fault
0, the transmit half, the Sync unit, the queue, the pool (R215), the canonical BLOB memory, the pipeline and the outstanding
requests each as `Safety.lean` says. -/
def Obligations.EveryStepKeepsTheInvariant : Prop :=
  ∀ s t : State, Inv s → step s = .next t → Inv t

/-- No step from a state that keeps the invariant ends in a fault: the machine's one fault, which the spec does not name, is out of
reach. -/
def Obligations.NoStepFaults : Prop :=
  ∀ s : State, Inv s → ∀ e : Fault, step s ≠ .fault e
end

