-- ==== Sys2Proof/Laws/Bits.lean ====
section
/-!
SUPPORT. Bit vectors, bytes and bit sequences: concatenation as numbers, `bits` and `pack`, and the lengths of what the codec builds.
-/

namespace Sys2Proof.Machine

/-- A concatenation as a number: the high part counts in units of the low part's range. -/
theorem toNat_append_eq {n m : Nat} (x : BitVec n) (y : BitVec m) : (x ++ y).toNat = 2 ^ m * x.toNat + y.toNat := by
  rw [BitVec.toNat_append, ← Nat.shiftLeft_add_eq_or_of_lt y.isLt, Nat.shiftLeft_eq, Nat.mul_comm]

/-- The capture register's two fields as a number (R290). -/
theorem toNat_faultInfo (x : BitVec 8) (y : BitVec 24) : BitVec.toNat (w := 32) (x ++ y) = 16777216 * x.toNat + y.toNat :=
  toNat_append_eq x y

/-- Two bytes as a number, most significant first. -/
theorem toNat_append_two (a b : Byte) : BitVec.toNat (w := 16) (a ++ b) = 256 * a.toNat + b.toNat :=
  toNat_append_eq a b

/-- Three bytes as a number, most significant first. -/
theorem toNat_append_three (a b c : Byte) : BitVec.toNat (w := 24) (a ++ b ++ c) = 65536 * a.toNat + 256 * b.toNat + c.toNat := by
  have h := toNat_append_eq (a ++ b) c
  rw [toNat_append_eq a b] at h
  refine h.trans ?_
  omega

/-- Four bytes as a number, most significant first. -/
theorem toNat_append_four (a b c d : Byte) :
    BitVec.toNat (w := 32) (a ++ b ++ c ++ d) = 16777216 * a.toNat + 65536 * b.toNat + 256 * c.toNat + d.toNat := by
  have h := toNat_append_eq (a ++ b ++ c) d
  rw [toNat_append_eq (a ++ b) c, toNat_append_eq a b] at h
  refine h.trans ?_
  omega

@[simp] theorem byteBits_length (b : Byte) : (byteBits b).length = 8 := rfl

@[simp] theorem bits_nil : bits [] = [] := rfl

@[simp] theorem bits_cons (b : Byte) (bs : List Byte) : bits (b :: bs) = byteBits b ++ bits bs := rfl

@[simp] theorem bits_append (xs ys : List Byte) : bits (xs ++ ys) = bits xs ++ bits ys := by
  simp [bits]

/-- A byte sequence has eight bits a byte. -/
@[simp] theorem bits_length (bs : List Byte) : (bits bs).length = 8 * bs.length := by
  induction bs with
  | nil => rfl
  | cons b bs ih =>
    simp only [bits_cons, List.length_append, byteBits_length, ih, List.length_cons]
    omega

/-- The byte of a byte's bits is the byte. -/
theorem packByte_bits (b : Byte) :
    packByte (b.getLsbD 7) (b.getLsbD 6) (b.getLsbD 5) (b.getLsbD 4) (b.getLsbD 3) (b.getLsbD 2) (b.getLsbD 1) (b.getLsbD 0) = b := by
  revert b
  decide +kernel

/-- The bits of a packed byte are the eight bits it was made of. -/
theorem byteBits_packByte (b7 b6 b5 b4 b3 b2 b1 b0 : Bool) :
    byteBits (packByte b7 b6 b5 b4 b3 b2 b1 b0) = [b7, b6, b5, b4, b3, b2, b1, b0] := by
  revert b7 b6 b5 b4 b3 b2 b1 b0
  decide

/-- `pack` undoes `bits` (R16). -/
@[simp] theorem pack_bits (bs : List Byte) : pack (bits bs) = bs := by
  induction bs with
  | nil => rfl
  | cons b bs ih =>
    rw [bits_cons, byteBits, List.cons_append, List.cons_append, List.cons_append, List.cons_append, List.cons_append,
      List.cons_append, List.cons_append, List.cons_append, List.nil_append, pack, packByte_bits, ih]

/-- `bits` undoes `pack` on a sequence whose length is a multiple of 8 (R16). -/
theorem bits_pack (bs : Bits) (h : bs.length % 8 = 0) : bits (pack bs) = bs := by
  match bs, h with
  | [], _ => rfl
  | b7 :: b6 :: b5 :: b4 :: b3 :: b2 :: b1 :: b0 :: rest, h =>
    have hr : rest.length % 8 = 0 := by
      simp only [List.length_cons] at h
      omega
    rw [pack, bits_cons, byteBits_packByte, bits_pack rest hr]
    rfl
  | [_], h => simp at h
  | [_, _], h => simp at h
  | [_, _, _], h => simp at h
  | [_, _, _, _], h => simp at h
  | [_, _, _, _, _], h => simp at h
  | [_, _, _, _, _, _], h => simp at h
  | [_, _, _, _, _, _, _], h => simp at h
termination_by bs.length

/-- A packed sequence of a multiple of 8 bits has a byte for every eight. -/
theorem pack_length (bs : Bits) (h : bs.length % 8 = 0) : 8 * (pack bs).length = bs.length := by
  rw [← bits_length, bits_pack bs h]

@[simp] theorem padding_length (P : Nat) : (padding P).length = P := by
  simp [padding]

@[simp] theorem whitenFrom_length (s : BitVec 9) (p : List Byte) : (whitenFrom s p).length = p.length := by
  induction p generalizing s with
  | nil => rfl
  | cons x xs ih => simp [whitenFrom, ih]

@[simp] theorem be32_length (v : Word) : (be32 v).length = 4 := rfl

@[simp] theorem headerBytes_length (off : BitVec 4) (P L : Nat) : (headerBytes off P L).length = 4 := rfl

end Sys2Proof.Machine
end

