-- ==== Sys2Proof/Laws/Memory.lean ====
section
/-!
SUPPORT. The BLOB memory: reading after writing, and the canonical form that every memory operation keeps.
-/

namespace Sys2Proof.Machine

/-- Every listed address is at least `a`. -/
def Memory.from (a : Nat) (m : Memory) : Prop := ∀ c ∈ m, a ≤ c.1

theorem Memory.wf_cons_iff (a : Nat) (x : Byte) (m : Memory) :
    Memory.wf ((a, x) :: m) = true ↔ Memory.from (a + 1) m ∧ Memory.wf m = true := by
  induction m generalizing a x with
  | nil => simp [Memory.wf, Memory.from]
  | cons c m ih =>
    obtain ⟨b, y⟩ := c
    simp only [Memory.wf, Bool.and_eq_true, decide_eq_true_eq]
    constructor
    · rintro ⟨hab, hw⟩
      refine ⟨?_, hw⟩
      have := ((ih b y).1 hw).1
      intro c hc
      rcases List.mem_cons.1 hc with rfl | hc
      · exact hab
      · exact le_trans hab (le_of_lt (this c hc))
    · rintro ⟨hf, hw⟩
      exact ⟨hf (b, y) (by simp), hw⟩

theorem Memory.read_eq_none_of_from {a b : Nat} {m : Memory} (h : Memory.from b m) (hab : a < b) : m.read a = none := by
  induction m with
  | nil => rfl
  | cons c m ih =>
    obtain ⟨d, y⟩ := c
    have hd : b ≤ d := h (d, y) (by simp)
    have : a ≠ d := by omega
    simp only [Memory.read, if_neg this]
    exact ih fun c hc => h c (by simp [hc])

/-- A read of the address just written gives the byte written. -/
@[simp] theorem Memory.read_write_same (m : Memory) (a : Nat) (x : Byte) : (m.write a x).read a = some x := by
  induction m with
  | nil => simp [Memory.write, Memory.read]
  | cons c m ih =>
    obtain ⟨b, y⟩ := c
    simp only [Memory.write]
    split
    · simp [Memory.read]
    · split
      · simp [Memory.read]
      · rename_i h1 h2
        simp [Memory.read, h2, ih]

/-- A write leaves every other address alone. -/
theorem Memory.read_write_other (m : Memory) {a c : Nat} (x : Byte) (h : c ≠ a) : (m.write a x).read c = m.read c := by
  induction m with
  | nil => simp [Memory.write, Memory.read, h]
  | cons d m ih =>
    obtain ⟨b, y⟩ := d
    simp only [Memory.write]
    split
    · simp [Memory.read, h]
    · split
      · rename_i h1 h2
        subst h2
        simp [Memory.read, h]
      · simp [Memory.read, ih]

theorem Memory.from_write {b : Nat} {m : Memory} (h : Memory.from b m) {a : Nat} (x : Byte) (hab : b ≤ a) :
    Memory.from b (m.write a x) := by
  induction m with
  | nil => simpa [Memory.write, Memory.from] using hab
  | cons c m ih =>
    obtain ⟨d, y⟩ := c
    have hd : b ≤ d := h (d, y) (by simp)
    have hm : Memory.from b m := fun c hc => h c (by simp [hc])
    simp only [Memory.write]
    split
    · intro c hc
      rcases List.mem_cons.1 hc with rfl | hc
      · exact hab
      · exact h c hc
    · split
      · intro c hc
        rcases List.mem_cons.1 hc with rfl | hc
        · exact hab
        · exact hm c hc
      · intro c hc
        rcases List.mem_cons.1 hc with rfl | hc
        · exact hd
        · exact ih hm c hc

/-- A write keeps the canonical form. -/
theorem Memory.wf_write {m : Memory} (h : m.wf = true) (a : Nat) (x : Byte) : (m.write a x).wf = true := by
  induction m with
  | nil => rfl
  | cons c m ih =>
    obtain ⟨b, y⟩ := c
    obtain ⟨hf, hw⟩ := (Memory.wf_cons_iff b y m).1 h
    simp only [Memory.write]
    split
    · rename_i hlt
      simp only [Memory.wf, Bool.and_eq_true, decide_eq_true_eq]
      exact ⟨hlt, h⟩
    · split
      · rename_i h2
        subst h2
        exact (Memory.wf_cons_iff _ _ _).2 ⟨hf, hw⟩
      · rename_i h1 h2
        exact (Memory.wf_cons_iff _ _ _).2 ⟨Memory.from_write hf x (by omega), ih hw⟩

/-- Writing consecutive bytes keeps the canonical form. -/
theorem Memory.wf_writeBytes {m : Memory} (h : m.wf = true) (a : Nat) (xs : List Byte) : (m.writeBytes a xs).wf = true := by
  induction xs generalizing m a with
  | nil => exact h
  | cons x xs ih => exact ih (Memory.wf_write h a x) (a + 1)

/-- Writing consecutive bytes leaves every address outside them alone. -/
theorem Memory.read_writeBytes_other (m : Memory) {a c : Nat} (xs : List Byte) (h : c < a ∨ a + xs.length ≤ c) :
    (m.writeBytes a xs).read c = m.read c := by
  induction xs generalizing m a with
  | nil => rfl
  | cons x xs ih =>
    simp only [List.length_cons] at h
    rw [Memory.writeBytes, ih _ (by omega), Memory.read_write_other _ _ (by omega)]

/-- The bytes written read back, first byte at the lowest address. -/
theorem Memory.read_writeBytes_same (m : Memory) (a k : Nat) (xs : List Byte) (h : k < xs.length) :
    (m.writeBytes a xs).read (a + k) = some xs[k] := by
  induction xs generalizing m a k with
  | nil => simp at h
  | cons x xs ih =>
    rw [Memory.writeBytes]
    cases k with
    | zero =>
      rw [Memory.read_writeBytes_other _ _ (by omega)]
      simp
    | succ k =>
      have := ih (m.write a x) (a + 1) k (by simpa using h)
      rw [show a + (k + 1) = a + 1 + k by omega, this]
      simp

/-- Addresses of different Blobs, or of different bytes of one, differ while the byte number fits its 16 bits. -/
theorem blobAddr_inj {i j : Index} {k l : Nat} (hk : k < 65536) (hl : l < 65536) :
    blobAddr i k = blobAddr j l ↔ i = j ∧ k = l := by
  constructor
  · intro h
    unfold blobAddr at h
    have hi := i.isLt
    have hj := j.isLt
    exact ⟨BitVec.eq_of_toNat_eq (by omega), by omega⟩
  · rintro ⟨rfl, rfl⟩
    rfl

/-- Nothing is listed after reset, and the canonical form holds. -/
theorem reset_memory_wf : State.reset.pool.mem = [] ∧ State.reset.pool.mem.wf = true := ⟨rfl, rfl⟩

end Sys2Proof.Machine
end

