-- ==== Sys2Proof/Laws/State.lean ====
section
/-!
SUPPORT. What each replacement of a unit, and each bookkeeping step of an operation, leaves of every field of the state: one
lemma per field, true by unfolding, so that no proof unfolds a record update.
-/

namespace Sys2Proof.Machine

variable (s : State)

/-! ## setMode -/

@[simp] theorem State.setMode_build (m : Mode) : (s.setMode m).build = s.build := rfl
@[simp] theorem State.setMode_mode (m : Mode) : (s.setMode m).mode = m := rfl
@[simp] theorem State.setMode_fault (m : Mode) : (s.setMode m).fault = s.fault := rfl
@[simp] theorem State.setMode_faultInfo (m : Mode) : (s.setMode m).faultInfo = s.faultInfo := rfl
@[simp] theorem State.setMode_cfg (m : Mode) : (s.setMode m).cfg = s.cfg := rfl
@[simp] theorem State.setMode_tx (m : Mode) : (s.setMode m).tx = s.tx := rfl
@[simp] theorem State.setMode_sync (m : Mode) : (s.setMode m).sync = s.sync := rfl
@[simp] theorem State.setMode_queue (m : Mode) : (s.setMode m).queue = s.queue := rfl
@[simp] theorem State.setMode_pool (m : Mode) : (s.setMode m).pool = s.pool := rfl
@[simp] theorem State.setMode_pipe (m : Mode) : (s.setMode m).pipe = s.pipe := rfl
@[simp] theorem State.setMode_work (m : Mode) : (s.setMode m).work = s.work := rfl
@[simp] theorem State.setMode_env (m : Mode) : (s.setMode m).env = s.env := rfl

/-! ## setCfg -/

@[simp] theorem State.setCfg_build (c : Cfg) : (s.setCfg c).build = s.build := rfl
@[simp] theorem State.setCfg_mode (c : Cfg) : (s.setCfg c).mode = s.mode := rfl
@[simp] theorem State.setCfg_fault (c : Cfg) : (s.setCfg c).fault = s.fault := rfl
@[simp] theorem State.setCfg_faultInfo (c : Cfg) : (s.setCfg c).faultInfo = s.faultInfo := rfl
@[simp] theorem State.setCfg_cfg (c : Cfg) : (s.setCfg c).cfg = c := rfl
@[simp] theorem State.setCfg_tx (c : Cfg) : (s.setCfg c).tx = s.tx := rfl
@[simp] theorem State.setCfg_sync (c : Cfg) : (s.setCfg c).sync = s.sync := rfl
@[simp] theorem State.setCfg_queue (c : Cfg) : (s.setCfg c).queue = s.queue := rfl
@[simp] theorem State.setCfg_pool (c : Cfg) : (s.setCfg c).pool = s.pool := rfl
@[simp] theorem State.setCfg_pipe (c : Cfg) : (s.setCfg c).pipe = s.pipe := rfl
@[simp] theorem State.setCfg_work (c : Cfg) : (s.setCfg c).work = s.work := rfl
@[simp] theorem State.setCfg_env (c : Cfg) : (s.setCfg c).env = s.env := rfl

/-! ## setTx -/

@[simp] theorem State.setTx_build (t : Tx) : (s.setTx t).build = s.build := rfl
@[simp] theorem State.setTx_mode (t : Tx) : (s.setTx t).mode = s.mode := rfl
@[simp] theorem State.setTx_fault (t : Tx) : (s.setTx t).fault = s.fault := rfl
@[simp] theorem State.setTx_faultInfo (t : Tx) : (s.setTx t).faultInfo = s.faultInfo := rfl
@[simp] theorem State.setTx_cfg (t : Tx) : (s.setTx t).cfg = s.cfg := rfl
@[simp] theorem State.setTx_tx (t : Tx) : (s.setTx t).tx = t := rfl
@[simp] theorem State.setTx_sync (t : Tx) : (s.setTx t).sync = s.sync := rfl
@[simp] theorem State.setTx_queue (t : Tx) : (s.setTx t).queue = s.queue := rfl
@[simp] theorem State.setTx_pool (t : Tx) : (s.setTx t).pool = s.pool := rfl
@[simp] theorem State.setTx_pipe (t : Tx) : (s.setTx t).pipe = s.pipe := rfl
@[simp] theorem State.setTx_work (t : Tx) : (s.setTx t).work = s.work := rfl
@[simp] theorem State.setTx_env (t : Tx) : (s.setTx t).env = s.env := rfl

/-! ## setSync -/

@[simp] theorem State.setSync_build (y : Sync) : (s.setSync y).build = s.build := rfl
@[simp] theorem State.setSync_mode (y : Sync) : (s.setSync y).mode = s.mode := rfl
@[simp] theorem State.setSync_fault (y : Sync) : (s.setSync y).fault = s.fault := rfl
@[simp] theorem State.setSync_faultInfo (y : Sync) : (s.setSync y).faultInfo = s.faultInfo := rfl
@[simp] theorem State.setSync_cfg (y : Sync) : (s.setSync y).cfg = s.cfg := rfl
@[simp] theorem State.setSync_tx (y : Sync) : (s.setSync y).tx = s.tx := rfl
@[simp] theorem State.setSync_sync (y : Sync) : (s.setSync y).sync = y := rfl
@[simp] theorem State.setSync_queue (y : Sync) : (s.setSync y).queue = s.queue := rfl
@[simp] theorem State.setSync_pool (y : Sync) : (s.setSync y).pool = s.pool := rfl
@[simp] theorem State.setSync_pipe (y : Sync) : (s.setSync y).pipe = s.pipe := rfl
@[simp] theorem State.setSync_work (y : Sync) : (s.setSync y).work = s.work := rfl
@[simp] theorem State.setSync_env (y : Sync) : (s.setSync y).env = s.env := rfl

/-! ## setQueue -/

@[simp] theorem State.setQueue_build (q : Queue) : (s.setQueue q).build = s.build := rfl
@[simp] theorem State.setQueue_mode (q : Queue) : (s.setQueue q).mode = s.mode := rfl
@[simp] theorem State.setQueue_fault (q : Queue) : (s.setQueue q).fault = s.fault := rfl
@[simp] theorem State.setQueue_faultInfo (q : Queue) : (s.setQueue q).faultInfo = s.faultInfo := rfl
@[simp] theorem State.setQueue_cfg (q : Queue) : (s.setQueue q).cfg = s.cfg := rfl
@[simp] theorem State.setQueue_tx (q : Queue) : (s.setQueue q).tx = s.tx := rfl
@[simp] theorem State.setQueue_sync (q : Queue) : (s.setQueue q).sync = s.sync := rfl
@[simp] theorem State.setQueue_queue (q : Queue) : (s.setQueue q).queue = q := rfl
@[simp] theorem State.setQueue_pool (q : Queue) : (s.setQueue q).pool = s.pool := rfl
@[simp] theorem State.setQueue_pipe (q : Queue) : (s.setQueue q).pipe = s.pipe := rfl
@[simp] theorem State.setQueue_work (q : Queue) : (s.setQueue q).work = s.work := rfl
@[simp] theorem State.setQueue_env (q : Queue) : (s.setQueue q).env = s.env := rfl

/-! ## setPool -/

@[simp] theorem State.setPool_build (p : Pool) : (s.setPool p).build = s.build := rfl
@[simp] theorem State.setPool_mode (p : Pool) : (s.setPool p).mode = s.mode := rfl
@[simp] theorem State.setPool_fault (p : Pool) : (s.setPool p).fault = s.fault := rfl
@[simp] theorem State.setPool_faultInfo (p : Pool) : (s.setPool p).faultInfo = s.faultInfo := rfl
@[simp] theorem State.setPool_cfg (p : Pool) : (s.setPool p).cfg = s.cfg := rfl
@[simp] theorem State.setPool_tx (p : Pool) : (s.setPool p).tx = s.tx := rfl
@[simp] theorem State.setPool_sync (p : Pool) : (s.setPool p).sync = s.sync := rfl
@[simp] theorem State.setPool_queue (p : Pool) : (s.setPool p).queue = s.queue := rfl
@[simp] theorem State.setPool_pool (p : Pool) : (s.setPool p).pool = p := rfl
@[simp] theorem State.setPool_pipe (p : Pool) : (s.setPool p).pipe = s.pipe := rfl
@[simp] theorem State.setPool_work (p : Pool) : (s.setPool p).work = s.work := rfl
@[simp] theorem State.setPool_env (p : Pool) : (s.setPool p).env = s.env := rfl

/-! ## setPipe -/

@[simp] theorem State.setPipe_build (p : Pipe) : (s.setPipe p).build = s.build := rfl
@[simp] theorem State.setPipe_mode (p : Pipe) : (s.setPipe p).mode = s.mode := rfl
@[simp] theorem State.setPipe_fault (p : Pipe) : (s.setPipe p).fault = s.fault := rfl
@[simp] theorem State.setPipe_faultInfo (p : Pipe) : (s.setPipe p).faultInfo = s.faultInfo := rfl
@[simp] theorem State.setPipe_cfg (p : Pipe) : (s.setPipe p).cfg = s.cfg := rfl
@[simp] theorem State.setPipe_tx (p : Pipe) : (s.setPipe p).tx = s.tx := rfl
@[simp] theorem State.setPipe_sync (p : Pipe) : (s.setPipe p).sync = s.sync := rfl
@[simp] theorem State.setPipe_queue (p : Pipe) : (s.setPipe p).queue = s.queue := rfl
@[simp] theorem State.setPipe_pool (p : Pipe) : (s.setPipe p).pool = s.pool := rfl
@[simp] theorem State.setPipe_pipe (p : Pipe) : (s.setPipe p).pipe = p := rfl
@[simp] theorem State.setPipe_work (p : Pipe) : (s.setPipe p).work = s.work := rfl
@[simp] theorem State.setPipe_env (p : Pipe) : (s.setPipe p).env = s.env := rfl

/-! ## setEnv -/

@[simp] theorem State.setEnv_build (e : Env) : (s.setEnv e).build = s.build := rfl
@[simp] theorem State.setEnv_mode (e : Env) : (s.setEnv e).mode = s.mode := rfl
@[simp] theorem State.setEnv_fault (e : Env) : (s.setEnv e).fault = s.fault := rfl
@[simp] theorem State.setEnv_faultInfo (e : Env) : (s.setEnv e).faultInfo = s.faultInfo := rfl
@[simp] theorem State.setEnv_cfg (e : Env) : (s.setEnv e).cfg = s.cfg := rfl
@[simp] theorem State.setEnv_tx (e : Env) : (s.setEnv e).tx = s.tx := rfl
@[simp] theorem State.setEnv_sync (e : Env) : (s.setEnv e).sync = s.sync := rfl
@[simp] theorem State.setEnv_queue (e : Env) : (s.setEnv e).queue = s.queue := rfl
@[simp] theorem State.setEnv_pool (e : Env) : (s.setEnv e).pool = s.pool := rfl
@[simp] theorem State.setEnv_pipe (e : Env) : (s.setEnv e).pipe = s.pipe := rfl
@[simp] theorem State.setEnv_work (e : Env) : (s.setEnv e).work = s.work := rfl
@[simp] theorem State.setEnv_env (e : Env) : (s.setEnv e).env = e := rfl

/-! ## setFault -/

@[simp] theorem State.setFault_build (f : BitVec 5) (info : BitVec 32) : (s.setFault f info).build = s.build := rfl
@[simp] theorem State.setFault_mode (f : BitVec 5) (info : BitVec 32) : (s.setFault f info).mode = s.mode := rfl
@[simp] theorem State.setFault_fault (f : BitVec 5) (info : BitVec 32) : (s.setFault f info).fault = f := rfl
@[simp] theorem State.setFault_faultInfo (f : BitVec 5) (info : BitVec 32) : (s.setFault f info).faultInfo = info := rfl
@[simp] theorem State.setFault_cfg (f : BitVec 5) (info : BitVec 32) : (s.setFault f info).cfg = s.cfg := rfl
@[simp] theorem State.setFault_tx (f : BitVec 5) (info : BitVec 32) : (s.setFault f info).tx = s.tx := rfl
@[simp] theorem State.setFault_sync (f : BitVec 5) (info : BitVec 32) : (s.setFault f info).sync = s.sync := rfl
@[simp] theorem State.setFault_queue (f : BitVec 5) (info : BitVec 32) : (s.setFault f info).queue = s.queue := rfl
@[simp] theorem State.setFault_pool (f : BitVec 5) (info : BitVec 32) : (s.setFault f info).pool = s.pool := rfl
@[simp] theorem State.setFault_pipe (f : BitVec 5) (info : BitVec 32) : (s.setFault f info).pipe = s.pipe := rfl
@[simp] theorem State.setFault_work (f : BitVec 5) (info : BitVec 32) : (s.setFault f info).work = s.work := rfl
@[simp] theorem State.setFault_env (f : BitVec 5) (info : BitVec 32) : (s.setFault f info).env = s.env := rfl

/-! ## reply -/

@[simp] theorem State.reply_build (r : Reply) : (s.reply r).build = s.build := rfl
@[simp] theorem State.reply_mode (r : Reply) : (s.reply r).mode = s.mode := rfl
@[simp] theorem State.reply_fault (r : Reply) : (s.reply r).fault = s.fault := rfl
@[simp] theorem State.reply_faultInfo (r : Reply) : (s.reply r).faultInfo = s.faultInfo := rfl
@[simp] theorem State.reply_cfg (r : Reply) : (s.reply r).cfg = s.cfg := rfl
@[simp] theorem State.reply_tx (r : Reply) : (s.reply r).tx = s.tx := rfl
@[simp] theorem State.reply_sync (r : Reply) : (s.reply r).sync = s.sync := rfl
@[simp] theorem State.reply_queue (r : Reply) : (s.reply r).queue = s.queue := rfl
@[simp] theorem State.reply_pool (r : Reply) : (s.reply r).pool = s.pool := rfl
@[simp] theorem State.reply_pipe (r : Reply) : (s.reply r).pipe = s.pipe := rfl
@[simp] theorem State.reply_work (r : Reply) : (s.reply r).work = s.work := rfl
@[simp] theorem State.reply_env (r : Reply) : (s.reply r).env = { s.env with replies := s.env.replies ++ [r] } := rfl

/-! ## complete -/

@[simp] theorem State.complete_build (c : Code) (r : Result) : (s.complete c r).build = s.build := rfl
@[simp] theorem State.complete_mode (c : Code) (r : Result) : (s.complete c r).mode = s.mode := rfl
@[simp] theorem State.complete_fault (c : Code) (r : Result) : (s.complete c r).fault = s.fault := rfl
@[simp] theorem State.complete_faultInfo (c : Code) (r : Result) : (s.complete c r).faultInfo = s.faultInfo := rfl
@[simp] theorem State.complete_cfg (c : Code) (r : Result) : (s.complete c r).cfg = s.cfg := rfl
@[simp] theorem State.complete_tx (c : Code) (r : Result) : (s.complete c r).tx = s.tx := rfl
@[simp] theorem State.complete_sync (c : Code) (r : Result) : (s.complete c r).sync = s.sync := rfl
@[simp] theorem State.complete_queue (c : Code) (r : Result) : (s.complete c r).queue = s.queue := rfl
@[simp] theorem State.complete_pool (c : Code) (r : Result) : (s.complete c r).pool = s.pool := rfl
@[simp] theorem State.complete_pipe (c : Code) (r : Result) : (s.complete c r).pipe = s.pipe := rfl
@[simp] theorem State.complete_work (c : Code) (r : Result) : (s.complete c r).work = s.work := rfl
@[simp] theorem State.complete_env (c : Code) (r : Result) : (s.complete c r).env = { s.env with
      replies := s.env.replies ++ [{ agent := s.env.agent, requester := none, code := c, result := r }] } := rfl

/-! ## completeFor -/

@[simp] theorem State.completeFor_build (q : ReqId) (c : Code) (r : Result) : (s.completeFor q c r).build = s.build := rfl
@[simp] theorem State.completeFor_mode (q : ReqId) (c : Code) (r : Result) : (s.completeFor q c r).mode = s.mode := rfl
@[simp] theorem State.completeFor_fault (q : ReqId) (c : Code) (r : Result) : (s.completeFor q c r).fault = s.fault := rfl
@[simp] theorem State.completeFor_faultInfo (q : ReqId) (c : Code) (r : Result) : (s.completeFor q c r).faultInfo = s.faultInfo := rfl
@[simp] theorem State.completeFor_cfg (q : ReqId) (c : Code) (r : Result) : (s.completeFor q c r).cfg = s.cfg := rfl
@[simp] theorem State.completeFor_tx (q : ReqId) (c : Code) (r : Result) : (s.completeFor q c r).tx = s.tx := rfl
@[simp] theorem State.completeFor_sync (q : ReqId) (c : Code) (r : Result) : (s.completeFor q c r).sync = s.sync := rfl
@[simp] theorem State.completeFor_queue (q : ReqId) (c : Code) (r : Result) : (s.completeFor q c r).queue = s.queue := rfl
@[simp] theorem State.completeFor_pool (q : ReqId) (c : Code) (r : Result) : (s.completeFor q c r).pool = s.pool := rfl
@[simp] theorem State.completeFor_pipe (q : ReqId) (c : Code) (r : Result) : (s.completeFor q c r).pipe = s.pipe := rfl
@[simp] theorem State.completeFor_work (q : ReqId) (c : Code) (r : Result) : (s.completeFor q c r).work = s.work := rfl
@[simp] theorem State.completeFor_env (q : ReqId) (c : Code) (r : Result) : (s.completeFor q c r).env = { s.env with
      replies := s.env.replies ++ [{ agent := .appRx, requester := some q, code := c, result := r }] } := rfl

/-! ## accept -/

@[simp] theorem State.accept_build : s.accept.build = s.build := rfl
@[simp] theorem State.accept_mode : s.accept.mode = s.mode := rfl
@[simp] theorem State.accept_fault : s.accept.fault = s.fault := rfl
@[simp] theorem State.accept_faultInfo : s.accept.faultInfo = s.faultInfo := rfl
@[simp] theorem State.accept_cfg : s.accept.cfg = s.cfg := rfl
@[simp] theorem State.accept_tx : s.accept.tx = s.tx := rfl
@[simp] theorem State.accept_sync : s.accept.sync = s.sync := rfl
@[simp] theorem State.accept_queue : s.accept.queue = s.queue := rfl
@[simp] theorem State.accept_pool : s.accept.pool = s.pool := rfl
@[simp] theorem State.accept_pipe : s.accept.pipe = s.pipe := rfl
@[simp] theorem State.accept_work : s.accept.work = s.work := rfl
@[simp] theorem State.accept_env : s.accept.env = s.env.answered [] := rfl

/-! ## hold -/

@[simp] theorem State.hold_build (i : Instr) : (s.hold i).build = s.build := rfl
@[simp] theorem State.hold_mode (i : Instr) : (s.hold i).mode = s.mode := rfl
@[simp] theorem State.hold_fault (i : Instr) : (s.hold i).fault = s.fault := rfl
@[simp] theorem State.hold_faultInfo (i : Instr) : (s.hold i).faultInfo = s.faultInfo := rfl
@[simp] theorem State.hold_cfg (i : Instr) : (s.hold i).cfg = s.cfg := rfl
@[simp] theorem State.hold_tx (i : Instr) : (s.hold i).tx = s.tx := rfl
@[simp] theorem State.hold_sync (i : Instr) : (s.hold i).sync = s.sync := rfl
@[simp] theorem State.hold_queue (i : Instr) : (s.hold i).queue = s.queue := rfl
@[simp] theorem State.hold_pool (i : Instr) : (s.hold i).pool = s.pool := rfl
@[simp] theorem State.hold_pipe (i : Instr) : (s.hold i).pipe = s.pipe := rfl
@[simp] theorem State.hold_work (i : Instr) : (s.hold i).work = s.work := rfl

/-! ## raiseFault -/

@[simp] theorem State.raiseFault_build (F : FaultNumber) (info : BitVec 24) : (s.raiseFault F info).build = s.build := rfl
@[simp] theorem State.raiseFault_mode (F : FaultNumber) (info : BitVec 24) : (s.raiseFault F info).mode = s.mode := rfl
@[simp] theorem State.raiseFault_fault (F : FaultNumber) (info : BitVec 24) : (s.raiseFault F info).fault = s.fault ||| BitVec.ofNat 5 (2 ^ F.bit) := rfl
@[simp] theorem State.raiseFault_faultInfo (F : FaultNumber) (info : BitVec 24) : (s.raiseFault F info).faultInfo = if s.fault = 0 then BitVec.ofNat 8 F.bit ++ info else s.faultInfo := rfl
@[simp] theorem State.raiseFault_cfg (F : FaultNumber) (info : BitVec 24) : (s.raiseFault F info).cfg = s.cfg := rfl
@[simp] theorem State.raiseFault_tx (F : FaultNumber) (info : BitVec 24) : (s.raiseFault F info).tx = s.tx := rfl
@[simp] theorem State.raiseFault_sync (F : FaultNumber) (info : BitVec 24) : (s.raiseFault F info).sync = s.sync := rfl
@[simp] theorem State.raiseFault_queue (F : FaultNumber) (info : BitVec 24) : (s.raiseFault F info).queue = s.queue := rfl
@[simp] theorem State.raiseFault_pool (F : FaultNumber) (info : BitVec 24) : (s.raiseFault F info).pool = s.pool := rfl
@[simp] theorem State.raiseFault_pipe (F : FaultNumber) (info : BitVec 24) : (s.raiseFault F info).pipe = s.pipe := rfl
@[simp] theorem State.raiseFault_work (F : FaultNumber) (info : BitVec 24) : (s.raiseFault F info).work = s.work := rfl
@[simp] theorem State.raiseFault_env (F : FaultNumber) (info : BitVec 24) : (s.raiseFault F info).env = s.env := rfl

/-! ## draw -/

@[simp] theorem State.draw_build : (s.draw).build = s.build := rfl
@[simp] theorem State.draw_mode : (s.draw).mode = s.mode := rfl
@[simp] theorem State.draw_fault : (s.draw).fault = s.fault := rfl
@[simp] theorem State.draw_faultInfo : (s.draw).faultInfo = s.faultInfo := rfl
@[simp] theorem State.draw_cfg : (s.draw).cfg = s.cfg := rfl
@[simp] theorem State.draw_tx : (s.draw).tx = s.tx := rfl
@[simp] theorem State.draw_sync : (s.draw).sync = s.sync := rfl
@[simp] theorem State.draw_queue : (s.draw).queue = s.queue := rfl
@[simp] theorem State.draw_pool : (s.draw).pool = s.pool := rfl
@[simp] theorem State.draw_pipe : (s.draw).pipe = s.pipe := rfl
@[simp] theorem State.draw_work : (s.draw).work = s.work := rfl
@[simp] theorem State.draw_env : (s.draw).env = { s.env with draws := s.env.draws + 1 } := rfl

/-! ## issuedBy -/

@[simp] theorem State.issuedBy_build (a : Agent) : (s.issuedBy a).build = s.build := rfl
@[simp] theorem State.issuedBy_mode (a : Agent) : (s.issuedBy a).mode = s.mode := rfl
@[simp] theorem State.issuedBy_fault (a : Agent) : (s.issuedBy a).fault = s.fault := rfl
@[simp] theorem State.issuedBy_faultInfo (a : Agent) : (s.issuedBy a).faultInfo = s.faultInfo := rfl
@[simp] theorem State.issuedBy_cfg (a : Agent) : (s.issuedBy a).cfg = s.cfg := rfl
@[simp] theorem State.issuedBy_tx (a : Agent) : (s.issuedBy a).tx = s.tx := rfl
@[simp] theorem State.issuedBy_sync (a : Agent) : (s.issuedBy a).sync = s.sync := rfl
@[simp] theorem State.issuedBy_queue (a : Agent) : (s.issuedBy a).queue = s.queue := rfl
@[simp] theorem State.issuedBy_pool (a : Agent) : (s.issuedBy a).pool = s.pool := rfl
@[simp] theorem State.issuedBy_pipe (a : Agent) : (s.issuedBy a).pipe = s.pipe := rfl
@[simp] theorem State.issuedBy_work (a : Agent) : (s.issuedBy a).work = s.work := rfl
@[simp] theorem State.issuedBy_env (a : Agent) : (s.issuedBy a).env = { s.env with agent := a, again := false } := rfl

/-! ## turnTo -/

@[simp] theorem State.turnTo_build (t : Internal) : (s.turnTo t).build = s.build := rfl
@[simp] theorem State.turnTo_mode (t : Internal) : (s.turnTo t).mode = s.mode := rfl
@[simp] theorem State.turnTo_fault (t : Internal) : (s.turnTo t).fault = s.fault := rfl
@[simp] theorem State.turnTo_faultInfo (t : Internal) : (s.turnTo t).faultInfo = s.faultInfo := rfl
@[simp] theorem State.turnTo_cfg (t : Internal) : (s.turnTo t).cfg = s.cfg := rfl
@[simp] theorem State.turnTo_tx (t : Internal) : (s.turnTo t).tx = s.tx := rfl
@[simp] theorem State.turnTo_sync (t : Internal) : (s.turnTo t).sync = s.sync := rfl
@[simp] theorem State.turnTo_queue (t : Internal) : (s.turnTo t).queue = s.queue := rfl
@[simp] theorem State.turnTo_pool (t : Internal) : (s.turnTo t).pool = s.pool := rfl
@[simp] theorem State.turnTo_pipe (t : Internal) : (s.turnTo t).pipe = s.pipe := rfl
@[simp] theorem State.turnTo_work (t : Internal) : (s.turnTo t).work = s.work := rfl
@[simp] theorem State.turnTo_env (t : Internal) : (s.turnTo t).env = { s.env with turn := t } := rfl

/-! ## fetched -/

@[simp] theorem State.fetched_build (a : Agent) (more : List Byte) (rest : List Choice) : (s.fetched a more rest).build = s.build := rfl
@[simp] theorem State.fetched_mode (a : Agent) (more : List Byte) (rest : List Choice) : (s.fetched a more rest).mode = s.mode := rfl
@[simp] theorem State.fetched_fault (a : Agent) (more : List Byte) (rest : List Choice) : (s.fetched a more rest).fault = s.fault := rfl
@[simp] theorem State.fetched_faultInfo (a : Agent) (more : List Byte) (rest : List Choice) : (s.fetched a more rest).faultInfo = s.faultInfo := rfl
@[simp] theorem State.fetched_cfg (a : Agent) (more : List Byte) (rest : List Choice) : (s.fetched a more rest).cfg = s.cfg := rfl
@[simp] theorem State.fetched_tx (a : Agent) (more : List Byte) (rest : List Choice) : (s.fetched a more rest).tx = s.tx := rfl
@[simp] theorem State.fetched_sync (a : Agent) (more : List Byte) (rest : List Choice) : (s.fetched a more rest).sync = s.sync := rfl
@[simp] theorem State.fetched_queue (a : Agent) (more : List Byte) (rest : List Choice) : (s.fetched a more rest).queue = s.queue := rfl
@[simp] theorem State.fetched_pool (a : Agent) (more : List Byte) (rest : List Choice) : (s.fetched a more rest).pool = s.pool := rfl
@[simp] theorem State.fetched_pipe (a : Agent) (more : List Byte) (rest : List Choice) : (s.fetched a more rest).pipe = s.pipe := rfl
@[simp] theorem State.fetched_work (a : Agent) (more : List Byte) (rest : List Choice) : (s.fetched a more rest).work = s.work := rfl
@[simp] theorem State.fetched_env (a : Agent) (more : List Byte) (rest : List Choice) : (s.fetched a more rest).env = { s.env with
      agent := a, again := false, script := if more = [] then rest else .present a more :: rest } := rfl

/-! ## scriptTo -/

@[simp] theorem State.scriptTo_build (rest : List Choice) : (s.scriptTo rest).build = s.build := rfl
@[simp] theorem State.scriptTo_mode (rest : List Choice) : (s.scriptTo rest).mode = s.mode := rfl
@[simp] theorem State.scriptTo_fault (rest : List Choice) : (s.scriptTo rest).fault = s.fault := rfl
@[simp] theorem State.scriptTo_faultInfo (rest : List Choice) : (s.scriptTo rest).faultInfo = s.faultInfo := rfl
@[simp] theorem State.scriptTo_cfg (rest : List Choice) : (s.scriptTo rest).cfg = s.cfg := rfl
@[simp] theorem State.scriptTo_tx (rest : List Choice) : (s.scriptTo rest).tx = s.tx := rfl
@[simp] theorem State.scriptTo_sync (rest : List Choice) : (s.scriptTo rest).sync = s.sync := rfl
@[simp] theorem State.scriptTo_queue (rest : List Choice) : (s.scriptTo rest).queue = s.queue := rfl
@[simp] theorem State.scriptTo_pool (rest : List Choice) : (s.scriptTo rest).pool = s.pool := rfl
@[simp] theorem State.scriptTo_pipe (rest : List Choice) : (s.scriptTo rest).pipe = s.pipe := rfl
@[simp] theorem State.scriptTo_work (rest : List Choice) : (s.scriptTo rest).work = s.work := rfl
@[simp] theorem State.scriptTo_env (rest : List Choice) : (s.scriptTo rest).env = { s.env with script := rest } := rfl

/-! ## resumed -/

@[simp] theorem State.resumed_build (k : Nat) (rq : Request) : (s.resumed k rq).build = s.build := rfl
@[simp] theorem State.resumed_mode (k : Nat) (rq : Request) : (s.resumed k rq).mode = s.mode := rfl
@[simp] theorem State.resumed_fault (k : Nat) (rq : Request) : (s.resumed k rq).fault = s.fault := rfl
@[simp] theorem State.resumed_faultInfo (k : Nat) (rq : Request) : (s.resumed k rq).faultInfo = s.faultInfo := rfl
@[simp] theorem State.resumed_cfg (k : Nat) (rq : Request) : (s.resumed k rq).cfg = s.cfg := rfl
@[simp] theorem State.resumed_tx (k : Nat) (rq : Request) : (s.resumed k rq).tx = s.tx := rfl
@[simp] theorem State.resumed_sync (k : Nat) (rq : Request) : (s.resumed k rq).sync = s.sync := rfl
@[simp] theorem State.resumed_queue (k : Nat) (rq : Request) : (s.resumed k rq).queue = s.queue := rfl
@[simp] theorem State.resumed_pool (k : Nat) (rq : Request) : (s.resumed k rq).pool = s.pool := rfl
@[simp] theorem State.resumed_pipe (k : Nat) (rq : Request) : (s.resumed k rq).pipe = s.pipe := rfl
@[simp] theorem State.resumed_work (k : Nat) (rq : Request) : (s.resumed k rq).work = s.work := rfl
@[simp] theorem State.resumed_env (k : Nat) (rq : Request) : (s.resumed k rq).env =
    { s.env with agent := rq.agent, again := true, pending := s.env.pending.eraseIdx k } := rfl

/-! ## frameMessage -/

@[simp] theorem State.frameMessage_build (p : List Byte) (rest : List SrcItem) : (s.frameMessage p rest).build = s.build := rfl
@[simp] theorem State.frameMessage_mode (p : List Byte) (rest : List SrcItem) : (s.frameMessage p rest).mode = s.mode := rfl
@[simp] theorem State.frameMessage_fault (p : List Byte) (rest : List SrcItem) : (s.frameMessage p rest).fault = s.fault := rfl
@[simp] theorem State.frameMessage_faultInfo (p : List Byte) (rest : List SrcItem) : (s.frameMessage p rest).faultInfo = s.faultInfo := rfl
@[simp] theorem State.frameMessage_cfg (p : List Byte) (rest : List SrcItem) : (s.frameMessage p rest).cfg = s.cfg := rfl
@[simp] theorem State.frameMessage_sync (p : List Byte) (rest : List SrcItem) : (s.frameMessage p rest).sync = s.sync := rfl
@[simp] theorem State.frameMessage_queue (p : List Byte) (rest : List SrcItem) : (s.frameMessage p rest).queue = s.queue := rfl
@[simp] theorem State.frameMessage_pool (p : List Byte) (rest : List SrcItem) : (s.frameMessage p rest).pool = s.pool := rfl
@[simp] theorem State.frameMessage_pipe (p : List Byte) (rest : List SrcItem) : (s.frameMessage p rest).pipe = s.pipe := rfl
@[simp] theorem State.frameMessage_work (p : List Byte) (rest : List SrcItem) : (s.frameMessage p rest).work = s.work := rfl
@[simp] theorem State.frameMessage_env (p : List Byte) (rest : List SrcItem) : (s.frameMessage p rest).env = s.env := rfl

/-! ## pullBytes -/

@[simp] theorem State.pullBytes_build (cap : BitVec 24) : (s.pullBytes cap).build = s.build := rfl
@[simp] theorem State.pullBytes_mode (cap : BitVec 24) : (s.pullBytes cap).mode = s.mode := rfl
@[simp] theorem State.pullBytes_fault (cap : BitVec 24) : (s.pullBytes cap).fault = s.fault := rfl
@[simp] theorem State.pullBytes_faultInfo (cap : BitVec 24) : (s.pullBytes cap).faultInfo = s.faultInfo := rfl
@[simp] theorem State.pullBytes_cfg (cap : BitVec 24) : (s.pullBytes cap).cfg = s.cfg := rfl
@[simp] theorem State.pullBytes_tx (cap : BitVec 24) : (s.pullBytes cap).tx = s.tx.advance (min cap.toNat s.tx.resid.length) := rfl
@[simp] theorem State.pullBytes_sync (cap : BitVec 24) : (s.pullBytes cap).sync = s.sync := rfl
@[simp] theorem State.pullBytes_queue (cap : BitVec 24) : (s.pullBytes cap).queue = s.queue := rfl
@[simp] theorem State.pullBytes_pool (cap : BitVec 24) : (s.pullBytes cap).pool = s.pool := rfl
@[simp] theorem State.pullBytes_pipe (cap : BitVec 24) : (s.pullBytes cap).pipe = s.pipe := rfl
@[simp] theorem State.pullBytes_work (cap : BitVec 24) : (s.pullBytes cap).work = s.work := rfl

/-! ## fillBlob -/

@[simp] theorem State.fillBlob_build (idx : Index) (p : List Byte) : (s.fillBlob idx p).build = s.build := rfl
@[simp] theorem State.fillBlob_mode (idx : Index) (p : List Byte) : (s.fillBlob idx p).mode = s.mode := rfl
@[simp] theorem State.fillBlob_fault (idx : Index) (p : List Byte) : (s.fillBlob idx p).fault = s.fault := rfl
@[simp] theorem State.fillBlob_faultInfo (idx : Index) (p : List Byte) : (s.fillBlob idx p).faultInfo = s.faultInfo := rfl
@[simp] theorem State.fillBlob_cfg (idx : Index) (p : List Byte) : (s.fillBlob idx p).cfg = s.cfg := rfl
@[simp] theorem State.fillBlob_tx (idx : Index) (p : List Byte) : (s.fillBlob idx p).tx = s.tx := rfl
@[simp] theorem State.fillBlob_sync (idx : Index) (p : List Byte) : (s.fillBlob idx p).sync = s.sync := rfl
@[simp] theorem State.fillBlob_queue (idx : Index) (p : List Byte) : (s.fillBlob idx p).queue = s.queue := rfl
@[simp] theorem State.fillBlob_pool (idx : Index) (p : List Byte) : (s.fillBlob idx p).pool = s.pool.blobCopy idx p := rfl
@[simp] theorem State.fillBlob_pipe (idx : Index) (p : List Byte) : (s.fillBlob idx p).pipe = { s.pipe with blob := (idx, BitVec.ofNat 16 p.length), state := .filled } := rfl
@[simp] theorem State.fillBlob_work (idx : Index) (p : List Byte) : (s.fillBlob idx p).work = s.work := rfl
@[simp] theorem State.fillBlob_env (idx : Index) (p : List Byte) : (s.fillBlob idx p).env = s.env := rfl

end Sys2Proof.Machine
end

