-- ==== Sys2Proof/Laws/Ops.lean ====
section
/-!
SUPPORT. For each shared operation, once, everything it can do: the lemmas a proof cites instead of unfolding the operation.
-/

namespace Sys2Proof.Machine

/-! ## Attempting an operation -/

theorem attempt_refused {i : Instr} {s : State} {f : State → StepOutcome} {r : Refusal} (h : s.refusal i = some r) :
    attempt i s f = .refused r := by
  simp [attempt, h]

theorem attempt_enabled {i : Instr} {s : State} {f : State → StepOutcome} (h : s.refusal i = none) (he : s.enabled i = true) :
    attempt i s f = f s.accept := by
  simp [attempt, h, he]

theorem attempt_blocked {i : Instr} {s : State} {f : State → StepOutcome} (h : s.refusal i = none) (he : s.enabled i = false) :
    attempt i s f = .next (s.hold i) := by
  simp [attempt, h, he]

/-- If an attempt answers a next state, the operation was not refused, and either it was enabled and its effect answered that
state, or it was not and it blocked. -/
theorem attempt_next {i : Instr} {s t : State} {f : State → StepOutcome} (h : attempt i s f = .next t) :
    s.refusal i = none ∧
      ((s.enabled i = true ∧ f s.accept = .next t) ∨ (s.enabled i = false ∧ t = s.hold i)) := by
  unfold attempt at h
  split at h
  · cases h
  · rename_i hr
    refine ⟨hr, ?_⟩
    split at h
    · rename_i he
      exact .inl ⟨he, h⟩
    · rename_i he
      cases h
      exact .inr ⟨by simpa using he, rfl⟩

/-- If an attempt faults, its effect did. -/
theorem attempt_fault {i : Instr} {s : State} {f : State → StepOutcome} {e : Fault} (h : attempt i s f = .fault e) :
    s.refusal i = none ∧ s.enabled i = true ∧ f s.accept = .fault e := by
  unfold attempt at h
  split at h
  · cases h
  · rename_i hr
    split at h
    · rename_i he
      exact ⟨hr, he, h⟩
    · cases h

/-- If an attempt is refused, its operation was, or its effect did. -/
theorem attempt_refusal {i : Instr} {s : State} {f : State → StepOutcome} {r : Refusal} (h : attempt i s f = .refused r) :
    s.refusal i = some r ∨ (s.refusal i = none ∧ s.enabled i = true ∧ f s.accept = .refused r) := by
  unfold attempt at h
  split at h
  · rename_i r' hr
    cases h
    exact .inl hr
  · rename_i hr
    split at h
    · rename_i he
      exact .inr ⟨hr, he, h⟩
    · cases h

/-- The port is free exactly when no operation is outstanding on it. -/
theorem portBusy_eq_false_iff (s : State) (i : Instr) :
    s.portBusy i = false ↔ ∀ rq ∈ s.env.pending, portOf i ≠ none → portOf rq.instr ≠ portOf i := by
  unfold State.portBusy
  cases h : portOf i with
  | none => simp
  | some p => simp

/-- What a presentable operation can still be refused for. -/
theorem refusal_of_presentable {i : Instr} {s : State} (h : Presentable i s) : s.refusal i = s.operandRefusal i := by
  obtain ⟨hw, hm, hp⟩ := h
  have hb := (portBusy_eq_false_iff s i).2 hp
  simp [State.refusal, hw, hm, hb]

/-- An operation is not refused exactly when it is presentable and its operands are good. -/
theorem refusal_eq_none_iff (i : Instr) (s : State) : s.refusal i = none ↔ Presentable i s ∧ s.operandRefusal i = none := by
  constructor
  · intro h
    unfold State.refusal at h
    split at h
    · cases h
    split at h
    · cases h
    split at h
    · cases h
    rename_i h1 h2 h3
    exact ⟨⟨by simpa using h1, by simpa using h2, (portBusy_eq_false_iff s i).1 (by simpa using h3)⟩, h⟩
  · rintro ⟨hp, ho⟩
    rw [refusal_of_presentable hp, ho]

@[simp] theorem answered_agent (e : Env) (rs : List Reply) : (e.answered rs).agent = e.agent := rfl
@[simp] theorem answered_again (e : Env) (rs : List Reply) : (e.answered rs).again = e.again := rfl
@[simp] theorem answered_draws (e : Env) (rs : List Reply) : (e.answered rs).draws = e.draws := rfl
@[simp] theorem answered_replies (e : Env) (rs : List Reply) : (e.answered rs).replies = rs := rfl
@[simp] theorem answered_script (e : Env) (rs : List Reply) : (e.answered rs).script = e.script := rfl
@[simp] theorem answered_schedule (e : Env) (rs : List Reply) : (e.answered rs).schedule = e.schedule := rfl
@[simp] theorem answered_turn (e : Env) (rs : List Reply) : (e.answered rs).turn = e.turn := rfl
@[simp] theorem answered_pending (e : Env) (rs : List Reply) : (e.answered rs).pending = e.pending := rfl

/-- An operation taken up and completed at once leaves the state as it was but for the answer. -/
theorem accept_complete (s : State) (c : Code) (r : Result) :
    s.accept.complete c r = { s with env := s.env.done c r } := rfl

/-- An acquire taken up and completed at once leaves the state as it was but for the answer. -/
theorem accept_completeFor (s : State) (q : ReqId) (c : Code) (r : Result) :
    s.accept.completeFor q c r = { s with env := s.env.doneFor q c r } := rfl

/-- A blocked operation changes nothing but the record of outstanding requests. -/
theorem hold_eq (s : State) (i : Instr) : s.hold i = { s with env := s.env.holding i } := by
  rfl

/-- What is enabled does not depend on the environment. -/
theorem enabled_setEnv (s : State) (e : Env) (i : Instr) : (s.setEnv e).enabled i = s.enabled i := by
  cases i <;> rfl

@[simp] theorem enabled_accept (s : State) (j : Instr) : s.accept.enabled j = s.enabled j := enabled_setEnv ..

/-! ## The encoder -/

/-- After a frame load the remaining bytes are the frame. -/
@[simp] theorem Tx.resid_loadFrame (t : Tx) (frame : List Byte) : (t.loadFrame frame).resid = frame := by
  simp [Tx.resid, Tx.loadFrame]

/-- A copy-out of `k` bytes shortens the remaining bytes from the front. -/
@[simp] theorem Tx.resid_advance (t : Tx) (k : Nat) : (t.advance k).resid = t.resid.drop k := by
  simp [Tx.resid, Tx.advance, List.drop_drop]

/-- What framing a message does to the transmit half. -/
theorem frameMessage_tx (s : State) (p : List Byte) (rest : List SrcItem) :
    (s.frameMessage p rest).tx.resid =
        encodeFrame s.build.alignSamples p s.cfg.sps.toNat s.cfg.bps.toNat s.cfg.ac s.tx.woff ∧
      (s.frameMessage p rest).tx.srcQ = rest ∧ (s.frameMessage p rest).tx.srcClosed = s.tx.srcClosed ∧
      (s.frameMessage p rest).tx.encClosed = s.tx.encClosed ∧ (s.frameMessage p rest).tx.cntTx = s.tx.cntTx + 1 ∧
      (s.frameMessage p rest).tx.woff = (if s.cfg.useWo then s.tx.woff + 1 else s.tx.woff) :=
  ⟨Tx.resid_loadFrame .., rfl, rfl, rfl, rfl, rfl⟩

/-- The payload a pull takes is the first of the source, and only Control items stand before it. -/
theorem takePayload_eq_some {q rest : List SrcItem} {p : List Byte} (h : takePayload q = some (p, rest)) :
    ∃ cs : List SrcItem, (∀ c ∈ cs, c = .control) ∧ q = cs ++ .payload p :: rest := by
  induction q with
  | nil => cases h
  | cons c q ih =>
    cases c with
    | payload b =>
      simp only [takePayload, Option.some.injEq, Prod.mk.injEq] at h
      obtain ⟨rfl, rfl⟩ := h
      exact ⟨[], by simp, rfl⟩
    | control =>
      obtain ⟨cs, hc, rfl⟩ := ih h
      exact ⟨.control :: cs, by simpa using hc, rfl⟩

/-- No payload is taken exactly when the source holds only Control items. -/
theorem takePayload_eq_none {q : List SrcItem} : takePayload q = none ↔ ∀ c ∈ q, c = .control := by
  induction q with
  | nil => simp [takePayload]
  | cons c q ih =>
    cases c with
    | payload b => simp [takePayload]
    | control => simp [takePayload, ih]

/-! ## The queue -/

theorem Queue.dequeue_eq_none {q : Queue} : q.dequeue = none ↔ q.q = [] := by
  cases h : q.q <;> simp [Queue.dequeue, h]

theorem Queue.dequeue_eq_some {q q' : Queue} {rp : RawPacket} :
    q.dequeue = some (rp, q') ↔ q.q = rp :: q'.q ∧ q'.closed = q.closed := by
  obtain ⟨l, c⟩ := q
  obtain ⟨l', c'⟩ := q'
  cases l <;> simp [Queue.dequeue, and_assoc, eq_comm]

/-- The two things a fetch can do (R241). -/
theorem fetchPacket_cases (s : State) :
    (∃ rp rest, s.queue.q = rp :: rest ∧
      s.fetchPacket = (s.setQueue { s.queue with q := rest }).setPipe { s.pipe with
        decLast := (decodePacket rp.bytes rp.length).code, res := decodePacket rp.bytes rp.length, state := .decoded }) ∨
    (s.queue.q = [] ∧ s.fetchPacket = s.setPipe { s.pipe with state := .stopped, stop := .queueClosed }) := by
  cases h : s.queue.q with
  | nil => exact .inr ⟨rfl, by simp [State.fetchPacket, Queue.dequeue, h]⟩
  | cons rp rest => exact .inl ⟨rp, rest, rfl, by simp [State.fetchPacket, Queue.dequeue, h]⟩

/-! ## The pool -/

@[simp] theorem Pool.setInUse_mem (p : Pool) (i : Index) (v : Bool) : (p.setInUse i v).mem = p.mem := rfl
@[simp] theorem Pool.setInUse_free (p : Pool) (i : Index) (v : Bool) : (p.setInUse i v).free = p.free := rfl
@[simp] theorem Pool.setInUse_waiters (p : Pool) (i : Index) (v : Bool) : (p.setInUse i v).waiters = p.waiters := rfl
@[simp] theorem Pool.setInUse_closed (p : Pool) (i : Index) (v : Bool) : (p.setInUse i v).closed = p.closed := rfl
@[simp] theorem Pool.setInUse_length (p : Pool) (i : Index) (v : Bool) : (p.setInUse i v).blobs.length = p.blobs.length := by
  simp [Pool.setInUse]
@[simp] theorem Pool.setLen_mem (p : Pool) (i : Index) (v : BitVec 16) : (p.setLen i v).mem = p.mem := rfl
@[simp] theorem Pool.setLen_free (p : Pool) (i : Index) (v : BitVec 16) : (p.setLen i v).free = p.free := rfl
@[simp] theorem Pool.setLen_waiters (p : Pool) (i : Index) (v : BitVec 16) : (p.setLen i v).waiters = p.waiters := rfl
@[simp] theorem Pool.setLen_closed (p : Pool) (i : Index) (v : BitVec 16) : (p.setLen i v).closed = p.closed := rfl
@[simp] theorem Pool.setLen_length (p : Pool) (i : Index) (v : BitVec 16) : (p.setLen i v).blobs.length = p.blobs.length := by
  simp [Pool.setLen]

/-- Writing an in-use bit writes that bit, if the index names a Blob, and no other. -/
theorem Pool.inUse_setInUse (p : Pool) (i j : Index) (v : Bool) :
    (p.setInUse i v).inUse j = if i = j ∧ i.toNat < p.blobs.length then v else p.inUse j := by
  unfold Pool.inUse Pool.setInUse
  by_cases hij : i = j
  · subst hij
    by_cases hl : i.toNat < p.blobs.length
    · simp [hl]
    · simp [hl]
  · have : i.toNat ≠ j.toNat := fun h => hij (BitVec.eq_of_toNat_eq h)
    simp [hij, this]

/-- Writing an in-use bit leaves every length alone. -/
@[simp] theorem Pool.blen_setInUse (p : Pool) (i j : Index) (v : Bool) : (p.setInUse i v).blen j = p.blen j := by
  unfold Pool.blen Pool.setInUse
  by_cases hij : i.toNat = j.toNat
  · rw [hij, List.getElem?_modify_eq]
    cases p.blobs[j.toNat]? <;> rfl
  · simp [hij]

/-- Writing a length writes it, if the index names a Blob, and no other. -/
theorem Pool.blen_setLen (p : Pool) (i j : Index) (v : BitVec 16) :
    (p.setLen i v).blen j = if i = j ∧ i.toNat < p.blobs.length then v else p.blen j := by
  unfold Pool.blen Pool.setLen
  by_cases hij : i = j
  · subst hij
    by_cases hl : i.toNat < p.blobs.length
    · simp [hl]
    · simp [hl]
  · have : i.toNat ≠ j.toNat := fun h => hij (BitVec.eq_of_toNat_eq h)
    simp [hij, this]

/-- Writing a length leaves every in-use bit alone. -/
@[simp] theorem Pool.inUse_setLen (p : Pool) (i j : Index) (v : BitVec 16) : (p.setLen i v).inUse j = p.inUse j := by
  unfold Pool.inUse Pool.setLen
  by_cases hij : i.toNat = j.toNat
  · rw [hij, List.getElem?_modify_eq]
    cases p.blobs[j.toNat]? <;> rfl
  · simp [hij]

/-- The front of the free list is taken, and its Blob becomes in use. -/
theorem Pool.takeFree_eq_some {p p' : Pool} {i : Index} :
    p.takeFree = some (i, p') ↔ ∃ rest, p.free = i :: rest ∧ p' = { p with free := rest }.setInUse i true := by
  cases h : p.free with
  | nil => simp [Pool.takeFree, h]
  | cons a rest =>
    simp only [Pool.takeFree, h, Option.some.injEq, Prod.mk.injEq, List.cons.injEq]
    constructor
    · rintro ⟨rfl, rfl⟩
      exact ⟨rest, ⟨rfl, rfl⟩, rfl⟩
    · rintro ⟨r, ⟨rfl, rfl⟩, rfl⟩
      exact ⟨rfl, rfl⟩

theorem Pool.takeFree_eq_none {p : Pool} : p.takeFree = none ↔ p.free = [] := by
  cases h : p.free <;> simp [Pool.takeFree, h]

/-- What a Blob copy does to the pool beside the memory. -/
theorem Pool.blobCopy_eq (pool : Pool) (i : Index) (p : List Byte) :
    (pool.blobCopy i p).free = pool.free ∧ (pool.blobCopy i p).waiters = pool.waiters ∧
      (pool.blobCopy i p).closed = pool.closed ∧ (pool.blobCopy i p).blobs.length = pool.blobs.length ∧
      (∀ j, (pool.blobCopy i p).inUse j = pool.inUse j) ∧
      (∀ j, (pool.blobCopy i p).blen j = if i = j ∧ i.toNat < pool.blobs.length then BitVec.ofNat 16 p.length else pool.blen j) := by
  refine ⟨rfl, rfl, rfl, by simp [Pool.blobCopy], fun j => ?_, fun j => ?_⟩
  · exact Pool.inUse_setLen ..
  · exact Pool.blen_setLen ..

/-- The release of a Blob while nobody waits: it becomes free, with length 0, at the back of the free list. -/
theorem releaseTo_nil (i : Index) (s : State) :
    State.releaseTo i [] s =
      some (s.setPool { (({ s.pool with waiters := [] }.setLen i 0).setInUse i false) with free := s.pool.free ++ [i] }) := rfl

/-- The release of a Blob while an external requester waits first: it is handed over and stays in use. -/
theorem releaseTo_external (i : Index) (r : ReqId) (rs : List ReqId) (s : State) (h : r ≠ 0) :
    State.releaseTo i (r :: rs) s =
      some ((s.setPool ({ s.pool with waiters := rs }.setLen i 0)).completeFor r .done (.index i)) := by
  rw [State.releaseTo, if_neg h]

/-- The release of a Blob while the pipeline waits first with a payload that fits: the payload is copied. -/
theorem releaseTo_pipe_fits (i : Index) (rs : List ReqId) (s : State) (p : List Byte) (h : s.pipe.res = .ok p)
    (hl : p.length ≤ s.build.blobCap) :
    State.releaseTo i (0 :: rs) s = some ((s.setPool ({ s.pool with waiters := rs }.setLen i 0)).fillBlob i p) := by
  simp [State.releaseTo, h, Nat.not_lt.2 hl]

/-- The release of a Blob while the pipeline waits first with a payload that is too long: the fault is raised and the Blob goes
to the waiters behind the pipeline. -/
theorem releaseTo_pipe_tooLarge (i : Index) (rs : List ReqId) (s : State) (p : List Byte) (h : s.pipe.res = .ok p)
    (hl : s.build.blobCap < p.length) :
    State.releaseTo i (0 :: rs) s =
      (State.releaseTo i rs
          ((s.setPool ({ s.pool with waiters := rs }.setLen i 0)).raiseFault .payloadTooLarge (BitVec.ofNat 24 p.length))).map
        fun s => s.setPipe { s.pipe with state := .waitPacket } := by
  simp [State.releaseTo, h, hl]

/-- A release has no answer only when the pipeline waits and holds no payload. -/
theorem releaseTo_isSome {i : Index} {ws : List ReqId} {s : State} (h : 0 ∈ ws → ∃ p, s.pipe.res = .ok p) :
    (State.releaseTo i ws s).isSome = true := by
  induction ws generalizing s with
  | nil => rfl
  | cons r rs ih =>
    by_cases hr : r = 0
    · subst hr
      obtain ⟨p, hp⟩ := h (by simp)
      by_cases hl : s.build.blobCap < p.length
      · rw [releaseTo_pipe_tooLarge i rs s p hp hl, Option.isSome_map]
        exact ih fun _ => ⟨p, by simpa using hp⟩
      · rw [releaseTo_pipe_fits i rs s p hp (Nat.not_lt.1 hl)]
        rfl
    · rw [releaseTo_external i r rs s hr]
      rfl

/-- The pipeline's acquire from a pool with a free Blob is the grant of the front of the free list. -/
theorem pipeAcquireBlob_free (s : State) (p : List Byte) (i : Index) (rest : List Index) (hc : s.pool.closed = false)
    (hf : s.pool.free = i :: rest) :
    s.pipeAcquireBlob p = (s.setPool ({ s.pool with free := rest }.setInUse i true)).grantPipe i p := by
  simp [State.pipeAcquireBlob, hc, Pool.takeFree, hf]

/-- The pipeline's acquire has an answer whenever a release has. -/
theorem pipeAcquireBlob_isSome (s : State) (p : List Byte) (h : s.pipe.res = .ok p) : (s.pipeAcquireBlob p).isSome = true := by
  unfold State.pipeAcquireBlob
  split
  · rfl
  · split
    · unfold State.grantPipe State.releaseBlob
      split
      · rw [Option.isSome_map]
        exact releaseTo_isSome fun _ => ⟨p, by simpa using h⟩
      · rfl
    · rfl

/-! ## The Sync unit, START and reset -/

/-- The three things an enqueue of a complete capture can do (R181). -/
theorem tryEnqueue_cases (s : State) :
    (s.queue.closed = true ∧ s.tryEnqueue = s.setSync { s.sync with cap := [], state := .stopped }) ∨
    (s.queue.closed = false ∧ s.queue.q.length < s.build.queueCap ∧
      s.tryEnqueue = (s.setQueue (s.queue.enqueue { bytes := s.sync.cap, length := s.sync.need.setWidth 24 })).setSync
        { s.sync with cap := [], fill := 0, state := .search }) ∨
    (s.queue.closed = false ∧ s.build.queueCap ≤ s.queue.q.length ∧
      s.tryEnqueue = s.setSync { s.sync with state := .push }) := by
  unfold State.tryEnqueue
  cases hc : s.queue.closed
  · by_cases hl : s.queue.q.length < s.build.queueCap
    · simp [hl]
    · simp [hl, Nat.not_lt.1 hl]
  · simp

/-- The two things the START commit can do (R266). -/
theorem startCommit_cases (s : State) :
    (∃ code, validateAccessCode s.cfg.acChars = some code ∧
      s.startCommit = (s.setCfg { s.cfg with
        ac := code, n := BitVec.ofNat 7 code.length, acv := accessCodeValue code,
        mask := accessCodeMask code.length }).setMode .run) ∨
    (validateAccessCode s.cfg.acChars = none ∧
      s.startCommit = (s.raiseFault .invalidAccessCode (BitVec.ofNat 24 s.cfg.acChars.length)).setMode .failed) := by
  unfold State.startCommit
  cases h : validateAccessCode s.cfg.acChars with
  | none => exact .inr ⟨rfl, rfl⟩
  | some code => exact .inl ⟨code, rfl, rfl⟩

/-- What reset leaves, field by field (R262, R56). -/
@[simp] theorem resetBlock_build (s : State) : s.resetBlock.build = s.build := rfl
@[simp] theorem resetBlock_mode (s : State) : s.resetBlock.mode = .setup := rfl
@[simp] theorem resetBlock_fault (s : State) : s.resetBlock.fault = 0 := rfl
@[simp] theorem resetBlock_faultInfo (s : State) : s.resetBlock.faultInfo = 0 := rfl
@[simp] theorem resetBlock_cfg (s : State) : s.resetBlock.cfg = Cfg.reset := rfl
@[simp] theorem resetBlock_tx (s : State) : s.resetBlock.tx = Tx.reset s.tx.encBuf := rfl
@[simp] theorem resetBlock_sync (s : State) : s.resetBlock.sync = Sync.reset := rfl
@[simp] theorem resetBlock_queue (s : State) : s.resetBlock.queue = Queue.reset := rfl
@[simp] theorem resetBlock_pool (s : State) : s.resetBlock.pool = Pool.reset s.build.poolSize s.pool.mem := rfl
@[simp] theorem resetBlock_pipe (s : State) : s.resetBlock.pipe = Pipe.reset s.pipe.res s.pipe.blob := rfl
@[simp] theorem resetBlock_work (s : State) : s.resetBlock.work = s.work := rfl
@[simp] theorem resetBlock_env (s : State) : s.resetBlock.env = { s.env with pending := [] } := rfl

/-- Closing the pool completes every waiter's acquire: the pipeline's by stopping it, the others' by a `PoolClosed` each. -/
theorem wakeAll_frame (ws : List ReqId) (s : State) :
    (State.wakeAll ws s).build = s.build ∧ (State.wakeAll ws s).mode = s.mode ∧ (State.wakeAll ws s).fault = s.fault ∧
      (State.wakeAll ws s).faultInfo = s.faultInfo ∧ (State.wakeAll ws s).cfg = s.cfg ∧ (State.wakeAll ws s).tx = s.tx ∧
      (State.wakeAll ws s).sync = s.sync ∧ (State.wakeAll ws s).queue = s.queue ∧ (State.wakeAll ws s).pool = s.pool ∧
      (State.wakeAll ws s).work = s.work := by
  induction ws generalizing s with
  | nil => simp [State.wakeAll]
  | cons r rs ih =>
    rw [State.wakeAll]
    by_cases hr : r = 0
    · rw [if_pos hr]
      simpa using ih (s.setPipe { s.pipe with state := .stopped, stop := .poolClosed })
    · rw [if_neg hr]
      simpa using ih (s.completeFor r .poolClosed (.index 0))

end Sys2Proof.Machine
end

