-- ==== Sys2Proof/Laws/Exec.lean ====
section
/-!
SUPPORT. Every meaning is the attempt of one effect: the effects as one function, and what `exec` and `step` can answer, stated
once over it.
-/

namespace Sys2Proof.Machine

/-- The effect an operation has once it is enabled. -/
def effect : Instr → State → StepOutcome
  | .nop, s => .next (s.complete .done .none)
  | .cfgWr addr data, s => .next (s.writeRegister addr data)
  | .cfgRd addr, s => .next (s.complete .done (.word (s.regRead addr)))
  | .sysReset, s => .next (s.resetBlock.complete .done .none)
  | .txMsg payload, s => .next (s.offer (.payload payload))
  | .txCtrl, s => .next (s.offer .control)
  | .txClose, s => .next ((s.setTx { s.tx with srcClosed := true }).complete .done .none)
  | .txPull cap, s => .next (s.pull cap)
  | .rxBit b, s => .next ((s.receiveBit b).complete .done .none)
  | .syncPush, s => .next (s.tryEnqueue.complete .done .none)
  | .qEnq length bytes, s =>
    .next (if s.queue.closed then s.complete .queueClosed .none
      else (s.setQueue (s.queue.enqueue { bytes := bytes, length := length })).complete .done .none)
  | .qDeq, s =>
    .next (match s.queue.dequeue with
      | some (rp, _) => s.fetchPacket.complete .done (.packet rp)
      | none => s.fetchPacket.complete .queueClosed .none)
  | .qClose, s => .next ((s.setQueue { s.queue with closed := true }).complete .done .none)
  | .poolAcq r, s =>
    if r = 0 then
      match s.pipe.res with
      | .ok p => granted (s.pipeAcquireBlob p) fun t => t.complete .done .none
      | .fail _ => .fault .grantWithoutPayload
    else .next (s.acquireExternal r)
  | .poolAcqnb r, s => .next (s.acquireNonBlocking r)
  | .poolRel idx, s =>
    if s.build.poolSize ≤ idx.toNat then .next ((s.raiseFault .badBlobIndex (idx.setWidth 24)).complete .defect .none)
    else if s.pool.inUse idx = false then .next ((s.raiseFault .doubleRelease (idx.setWidth 24)).complete .defect .none)
    else granted (s.releaseBlob idx) fun t => t.complete .done .none
  | .poolClose, s =>
    .next ((State.wakeAll s.pool.waiters (s.setPool { s.pool with closed := true, waiters := [] })).complete .done .none)
  | .blobRd idx off, s =>
    .next (if s.blobReadable idx off then s.complete .done (.byte (s.pool.byteAt idx off.toNat))
      else s.draw.complete .done (.byte (Config.freeByte s.env.draws)))
  | .blobLen idx, s =>
    .next (if idx.toNat < s.build.poolSize then s.complete .done (.length (s.pool.blen idx))
      else s.draw.complete .done (.length (Config.freeLength s.env.draws)))
  | .pipeFetch, s => .next (s.fetchPacket.complete .done .none)
  | .pipeAcquire, s =>
    match s.pipe.res with
    | .ok p => granted (s.pipeAcquireBlob p) fun t => t.complete .done .none
    | .fail _ => .fault .grantWithoutPayload
  | .pipeEmit, s => .next ((s.setPipe s.pipe.emit).complete .done .none)
  | .rxTake, s =>
    .next (match s.pipe.outMsg with
      | some m => (s.setPipe { s.pipe with outMsg := none }).complete .done (.message m)
      | none => if s.pipe.stop = .queueClosed then s.complete .queueClosed .none else s.complete .poolClosed .none)

theorem exec_eq_attempt (i : Instr) (s : State) : exec i s = attempt i s (effect i) := by
  cases i <;> rfl

/-- A presentable, enabled operation with good operands is its effect. -/
theorem exec_eq_effect {i : Instr} {s : State} (h : Presentable i s) (ho : s.operandRefusal i = none)
    (he : s.enabled i = true) : exec i s = effect i s.accept := by
  rw [exec_eq_attempt, attempt_enabled (by rw [refusal_of_presentable h, ho]) he]

/-- A presentable operation with good operands that is not enabled blocks. -/
theorem exec_eq_hold {i : Instr} {s : State} (h : Presentable i s) (ho : s.operandRefusal i = none)
    (he : s.enabled i = false) : exec i s = .next (s.hold i) := by
  rw [exec_eq_attempt, attempt_blocked (by rw [refusal_of_presentable h, ho]) he]

/-- If an operation answers a next state, it was presentable with good operands, and either it was enabled and its effect
answered that state, or it was not and it blocked. -/
theorem exec_next {i : Instr} {s t : State} (h : exec i s = .next t) :
    Presentable i s ∧ s.operandRefusal i = none ∧
      ((s.enabled i = true ∧ effect i s.accept = .next t) ∨ (s.enabled i = false ∧ t = s.hold i)) := by
  rw [exec_eq_attempt] at h
  obtain ⟨hr, hc⟩ := attempt_next h
  obtain ⟨hp, ho⟩ := (refusal_eq_none_iff i s).1 hr
  exact ⟨hp, ho, hc⟩

/-- If an operation faults, it was an enabled acquire or release, and its effect faulted. -/
theorem exec_fault {i : Instr} {s : State} {e : Fault} (h : exec i s = .fault e) :
    Presentable i s ∧ s.operandRefusal i = none ∧ s.enabled i = true ∧ effect i s.accept = .fault e := by
  rw [exec_eq_attempt] at h
  obtain ⟨hr, he, hf⟩ := attempt_fault h
  obtain ⟨hp, ho⟩ := (refusal_eq_none_iff i s).1 hr
  exact ⟨hp, ho, he, hf⟩

/-- No effect is refused. -/
theorem effect_ne_refused (i : Instr) (s : State) (r : Refusal) : effect i s ≠ .refused r := by
  have hg : ∀ (o : Option State) (f : State → State), granted o f ≠ .refused r := by
    intro o f
    cases o <;> simp [granted]
  cases i
  case poolAcq q =>
    simp only [effect]
    split
    · split
      · exact hg _ _
      · exact fun h => nomatch h
    · exact fun h => nomatch h
  case poolRel idx =>
    simp only [effect]
    split
    · exact fun h => nomatch h
    · split
      · exact fun h => nomatch h
      · exact hg _ _
  case pipeAcquire =>
    simp only [effect]
    split
    · exact hg _ _
    · exact fun h => nomatch h
  all_goals exact fun h => nomatch h

/-- An operation is refused exactly when it is not presentable or its operands are bad. -/
theorem exec_refused {i : Instr} {s : State} {r : Refusal} : exec i s = .refused r ↔ s.refusal i = some r := by
  rw [exec_eq_attempt]
  constructor
  · intro h
    rcases attempt_refusal h with h | ⟨-, -, h⟩
    · exact h
    · exact absurd h (effect_ne_refused i _ r)
  · exact attempt_refused

@[simp] theorem enabled_scriptTo (s : State) (rest : List Choice) (i : Instr) : (s.scriptTo rest).enabled i = s.enabled i :=
  enabled_setEnv ..
@[simp] theorem enabled_turnTo (s : State) (t : Internal) (i : Instr) : (s.turnTo t).enabled i = s.enabled i := enabled_setEnv ..
@[simp] theorem enabled_issuedBy (s : State) (a : Agent) (i : Instr) : (s.issuedBy a).enabled i = s.enabled i := enabled_setEnv ..
@[simp] theorem enabled_resumed (s : State) (k : Nat) (rq : Request) (i : Instr) : (s.resumed k rq).enabled i = s.enabled i :=
  enabled_setEnv ..

/-- An enabled outstanding operation, attempted again, runs as its agent's, withdrawn from the outstanding ones. -/
theorem resume_enabled {s : State} {k : Nat} {rq : Request} (hk : s.env.pending[k]? = some rq) (he : s.enabled rq.instr = true) :
    s.resume k = exec rq.instr (s.resumed k rq) := by
  simp [State.resume, hk, he]

/-- An outstanding operation that is not enabled, attempted again, changes nothing. -/
theorem resume_blocked {s : State} {k : Nat} {rq : Request} (hk : s.env.pending[k]? = some rq) (he : s.enabled rq.instr = false) :
    s.resume k = .next s := by
  simp [State.resume, hk, he]

/-- What attempting an outstanding operation again can do: nothing, or that operation, withdrawn from the outstanding ones. -/
theorem resume_cases (s : State) (k : Nat) :
    s.resume k = .next s ∨
      ∃ rq, s.env.pending[k]? = some rq ∧ s.enabled rq.instr = true ∧ s.resume k = exec rq.instr (s.resumed k rq) := by
  unfold State.resume
  split
  · rename_i rq hk
    split
    · rename_i he
      exact .inr ⟨rq, hk, he, rfl⟩
    · exact .inl rfl
  · exact .inl rfl

/-- What the script can do: nothing but wait or go on, refuse bytes that encode no operation, or run one operation in this state
with another environment, in which no more operations are outstanding. -/
theorem stepScript_cases (s : State) :
    (∃ e : Env, e.pending = s.env.pending ∧ stepScript s = .next (s.setEnv e)) ∨ (∃ e, stepScript s = .refused (.badRecord e)) ∨
      ∃ (i : Instr) (e : Env), e.pending.Sublist s.env.pending ∧ stepScript s = exec i (s.setEnv e) := by
  unfold stepScript
  split
  · exact .inl ⟨s.env, rfl, rfl⟩
  · rename_i k rest _
    rcases resume_cases (s.scriptTo rest) k with h | ⟨rq, -, -, h⟩
    · exact .inl ⟨(s.scriptTo rest).env, rfl, h⟩
    · exact .inr (.inr ⟨rq.instr, ((s.scriptTo rest).resumed k rq).env, List.eraseIdx_sublist .., h⟩)
  · rename_i rest _
    exact .inl ⟨(s.scriptTo rest).env, rfl, rfl⟩
  · rename_i a b bs rest _
    split
    · exact .inr (.inl ⟨_, rfl⟩)
    · rename_i i more _
      exact .inr (.inr ⟨i, (s.fetched a more rest).env, .refl _, rfl⟩)

/-- What a step can do: nothing but wait or go on, refuse bytes that encode no operation, or run one operation in this state with
another environment, in which no more operations are outstanding. -/
theorem step_cases (s : State) :
    (∃ e : Env, e.pending = s.env.pending ∧ step s = .next (s.setEnv e)) ∨ (∃ e, step s = .refused (.badRecord e)) ∨
      ∃ (i : Instr) (e : Env), e.pending.Sublist s.env.pending ∧ step s = exec i (s.setEnv e) := by
  unfold step
  split
  · exact stepScript_cases s
  · unfold stepEager
    split
    · rename_i t _
      exact .inr (.inr ⟨t.instr, ((s.issuedBy (issuerOf t.instr)).turnTo t.succ).env, .refl _, rfl⟩)
    · split
      · rename_i k _
        rcases resume_cases (s.turnTo .syncPush) k with h | ⟨rq, -, -, h⟩
        · exact .inl ⟨(s.turnTo .syncPush).env, rfl, h⟩
        · exact .inr (.inr ⟨rq.instr, ((s.turnTo .syncPush).resumed k rq).env, List.eraseIdx_sublist .., h⟩)
      · exact stepScript_cases (s.turnTo .syncPush)

end Sys2Proof.Machine
end

