-- ==== Sys2Proof/Laws/Inv.lean ====
section
/-!
SUPPORT. What each unit's invariant depends on: an operation that leaves those fields alone keeps that unit's invariant.
-/

namespace Sys2Proof.Machine

variable {s t : State}

theorem CfgInv.congr (h : CfgInv s) (hm : t.mode = s.mode) (hc : t.cfg = s.cfg) : CfgInv t := by
  obtain ⟨h1, h2, h3, h4, h5, h6⟩ := h
  constructor <;> simpa only [hm, hc]

theorem FaultInv.congr (h : FaultInv s) (hm : t.mode = s.mode) (hf : t.fault = s.fault) (hi : t.faultInfo = s.faultInfo) :
    FaultInv t := by
  obtain ⟨h1, h2⟩ := h
  constructor <;> simpa only [hm, hf, hi]

theorem TxInv.congr (h : TxInv s) (hm : t.mode = s.mode) (hc : t.cfg = s.cfg) (hx : t.tx = s.tx) : TxInv t := by
  obtain ⟨h1, h2, h3, h4, h5⟩ := h
  constructor <;> simpa only [hm, hc, hx]

theorem SyncInv.congr (h : SyncInv s) (hm : t.mode = s.mode) (hy : t.sync = s.sync) : SyncInv t := by
  obtain ⟨h1, h2, h3, h4, h5, h6, h7⟩ := h
  constructor <;> simpa only [hm, hy]

theorem QueueInv.congr (h : QueueInv s) (hb : t.build = s.build) (hm : t.mode = s.mode) (hq : t.queue = s.queue) :
    QueueInv t := by
  obtain ⟨h1, h2, h3⟩ := h
  constructor <;> simpa only [hb, hm, hq]

theorem PoolInv.congr (h : PoolInv s) (hb : t.build = s.build) (hm : t.mode = s.mode) (hp : t.pool = s.pool)
    (hs : t.pipe.state = s.pipe.state) : PoolInv t := by
  obtain ⟨h1, h2, h3, h4, h5, h6, h7, h8, h9, h10⟩ := h
  constructor <;> simpa only [hb, hm, hp, hs]

theorem MemInv.congr (h : MemInv s) (hp : t.pool = s.pool) : MemInv t := by
  obtain ⟨h1, h2⟩ := h
  constructor <;> simpa only [hp]

theorem PipeInv.congr (h : PipeInv s) (hm : t.mode = s.mode) (hp : t.pipe = s.pipe) : PipeInv t := by
  obtain ⟨h1, h2, h3, h4⟩ := h
  constructor <;> simpa only [hm, hp]

theorem PendingInv.congr (h : PendingInv s) (hp : t.env.pending = s.env.pending) : PendingInv t := by
  obtain ⟨h1, h2, h3⟩ := h
  constructor <;> simpa only [hp]

/-- Taking outstanding requests away keeps what is said of them. -/
theorem PendingInv.sublist (h : PendingInv s) (hp : t.env.pending.Sublist s.env.pending) : PendingInv t where
  ports := fun rq hq => h.ports rq (hp.subset hq)
  distinct := h.distinct.sublist hp
  issuers := fun rq hq => h.issuers rq (hp.subset hq)

/-- The environment enters the invariant only through the outstanding requests, of which fewer are good too. -/
theorem Inv.setEnv (h : Inv s) {e : Env} (he : e.pending.Sublist s.env.pending) : Inv (s.setEnv e) where
  build := h.build
  cfg := h.cfg.congr rfl rfl
  fault := h.fault.congr rfl rfl rfl
  tx := h.tx.congr rfl rfl rfl
  sync := h.sync.congr rfl rfl
  queue := h.queue.congr rfl rfl rfl
  pool := h.pool.congr rfl rfl rfl rfl
  mem := h.mem.congr rfl
  pipe := h.pipe.congr rfl rfl
  pending := h.pending.sublist he

/-- The request a blocked operation leaves is on a port of its own, by an agent that may issue it. -/
theorem PendingInv.hold (h : PendingInv s) {i : Instr} (hp : Presentable i s) : PendingInv (s.hold i) := by
  have hpend : (s.hold i).env.pending =
      if portOf i = none then s.env.pending else s.env.pending ++ [{ agent := s.env.agent, instr := i }] := rfl
  split at hpend
  · exact h.congr hpend
  · rename_i hport
    refine ⟨fun rq hq => ?_, ?_, fun rq hq => ?_⟩
    · rw [hpend] at hq
      rcases List.mem_append.1 hq with hq | hq
      · exact h.ports rq hq
      · obtain rfl := List.mem_singleton.1 hq
        exact hport
    · rw [hpend, List.pairwise_append]
      refine ⟨h.distinct, List.pairwise_singleton _ _, fun a ha b hb => ?_⟩
      obtain rfl := List.mem_singleton.1 hb
      exact hp.2.2 a ha hport
    · rw [hpend] at hq
      rcases List.mem_append.1 hq with hq | hq
      · exact h.issuers rq hq
      · obtain rfl := List.mem_singleton.1 hq
        exact hp.2.1

/-- A blocked operation keeps the invariant. -/
theorem Inv.hold (h : Inv s) {i : Instr} (hp : Presentable i s) : Inv (s.hold i) where
  build := h.build
  cfg := h.cfg.congr rfl rfl
  fault := h.fault.congr rfl rfl rfl
  tx := h.tx.congr rfl rfl rfl
  sync := h.sync.congr rfl rfl
  queue := h.queue.congr rfl rfl rfl
  pool := h.pool.congr rfl rfl rfl rfl
  mem := h.mem.congr rfl
  pipe := h.pipe.congr rfl rfl
  pending := h.pending.hold hp

end Sys2Proof.Machine
end

