-- ==== Sys2Proof/Laws/PerInstr.lean ====
section
/-!
SUPPORT. Statements about every operation, proved per operation: the record a well-formed operation encodes to has the length
its format gives it, and that length is read back from the record's own first bytes (`30_encoding.md` R111).
-/

namespace Sys2Proof.Laws.EncodeLength

/-- The record has the bytes of its format, and its length can be found from its opcode byte and, for TM and TQ, the field that
follows, whatever comes after the record. -/
def Statement (i : Instr) : Prop :=
  i.wellFormed = true → (encode i).length = i.recordBytes ∧ ∀ rest, recordLength (encode i ++ rest) = i.recordBytes

theorem nop : Statement .nop := fun _ => ⟨rfl, fun _ => rfl⟩

theorem cfgWr (addr : Byte) (data : Word) : Statement (.cfgWr addr data) := fun _ => ⟨rfl, fun _ => rfl⟩

theorem cfgRd (addr : Byte) : Statement (.cfgRd addr) := fun _ => ⟨rfl, fun _ => rfl⟩

theorem sysReset : Statement .sysReset := fun _ => ⟨rfl, fun _ => rfl⟩

theorem txMsg (payload : List Byte) : Statement (.txMsg payload) := by
  intro h
  have hl : payload.length ≤ 65535 := of_decide_eq_true h
  refine ⟨by simp [encode, be16, Instr.recordBytes]; omega, fun rest => ?_⟩
  simp [encode, be16, Instr.recordBytes, recordLength, Nat.shiftRight_eq_div_pow]
  omega

theorem txCtrl : Statement .txCtrl := fun _ => ⟨rfl, fun _ => rfl⟩

theorem txClose : Statement .txClose := fun _ => ⟨rfl, fun _ => rfl⟩

theorem txPull (cap : BitVec 24) : Statement (.txPull cap) := fun _ => ⟨rfl, fun _ => rfl⟩

theorem rxBit (b : Bool) : Statement (.rxBit b) := fun _ => ⟨rfl, fun _ => rfl⟩

theorem syncPush : Statement .syncPush := fun _ => ⟨rfl, fun _ => rfl⟩

theorem qEnq (length : BitVec 24) (bytes : List Byte) : Statement (.qEnq length bytes) := by
  intro h
  have hl : bytes.length ≤ 65543 := of_decide_eq_true h
  refine ⟨by simp [encode, be24, Instr.recordBytes]; omega, fun rest => ?_⟩
  simp [encode, be24, Instr.recordBytes, recordLength, Nat.shiftRight_eq_div_pow]
  omega

theorem qDeq : Statement .qDeq := fun _ => ⟨rfl, fun _ => rfl⟩

theorem qClose : Statement .qClose := fun _ => ⟨rfl, fun _ => rfl⟩

theorem poolAcq (r : ReqId) : Statement (.poolAcq r) := fun _ => ⟨rfl, fun _ => rfl⟩

theorem poolAcqnb (r : ReqId) : Statement (.poolAcqnb r) := fun _ => ⟨rfl, fun _ => rfl⟩

theorem poolRel (idx : Index) : Statement (.poolRel idx) := fun _ => ⟨rfl, fun _ => rfl⟩

theorem poolClose : Statement .poolClose := fun _ => ⟨rfl, fun _ => rfl⟩

theorem blobRd (idx : Index) (off : BitVec 16) : Statement (.blobRd idx off) := fun _ => ⟨rfl, fun _ => rfl⟩

theorem blobLen (idx : Index) : Statement (.blobLen idx) := fun _ => ⟨rfl, fun _ => rfl⟩

theorem pipeFetch : Statement .pipeFetch := fun _ => ⟨rfl, fun _ => rfl⟩

theorem pipeAcquire : Statement .pipeAcquire := fun _ => ⟨rfl, fun _ => rfl⟩

theorem pipeEmit : Statement .pipeEmit := fun _ => ⟨rfl, fun _ => rfl⟩

theorem rxTake : Statement .rxTake := fun _ => ⟨rfl, fun _ => rfl⟩

end Sys2Proof.Laws.EncodeLength
end

