-- ==== Sys2Proof/Machine/Script.lean ====
section
/-!
DEFINITION. Scripts as text (`30_encoding.md` R120) and the pseudo-operations (R121): a line of text becomes the operations it
stands for, and a text the script the step reads. No operation of the machine calls this file.
-/

namespace Sys2Proof.Machine

/-! ## Pseudo-operations (R121) -/

/-- `CFG.AC "s"`: `AC_CLEAR`, then one `AC_CHAR` for each character of the string in order. -/
def Script.cfgAc (chars : List Byte) : List Instr :=
  .cfgWr 0x07 0 :: chars.map fun c => .cfgWr 0x06 (c.setWidth 32)

/-- `CFG.START`. -/
def Script.cfgStart : List Instr := [.cfgWr 0x02 1]

/-- `RX.BYTE v`: eight bits, `v[7]` first (how the text writes `v` is said at `Script.operation`). -/
def Script.rxByte (v : Byte) : List Instr :=
  [.rxBit (v.getLsbD 7), .rxBit (v.getLsbD 6), .rxBit (v.getLsbD 5), .rxBit (v.getLsbD 4),
    .rxBit (v.getLsbD 3), .rxBit (v.getLsbD 2), .rxBit (v.getLsbD 1), .rxBit (v.getLsbD 0)]

/-- `RX.BYTES b0 b1 ...`. -/
def Script.rxBytes (vs : List Byte) : List Instr := vs.flatMap Script.rxByte

/-- `RX.BITS "0110"`: one bit per character, leftmost first. -/
def Script.rxBits (bs : Bits) : List Instr := bs.map .rxBit

/-- `TX.SEND p`. -/
def Script.txSend (p : List Byte) : List Instr := [.txMsg p]

/-! ## The words of a line -/

/-- A word of a line. -/
inductive Token where
  /-- A mnemonic, an agent, a register name, a number or a hex pair. -/
  | word (cs : List Char)
  /-- A quoted string. -/
  | quoted (cs : List Char)
  | comma
  | colon
  /-- `->`: the expected result follows. -/
  | arrow
  deriving DecidableEq, Repr

/-- Where the reading of a line stands: between words, in a word, in a quoted string (characters read, last first). -/
inductive Token.Reading where
  | between
  | inWord (cs : List Char)
  | inString (cs : List Char)
  deriving DecidableEq, Repr

/-- The word being read, closed. -/
def Token.close : Token.Reading → List Token
  | .between => []
  | .inWord cs => [.word cs.reverse]
  | .inString cs => [.quoted cs.reverse]

/-- One more character outside a quoted string. -/
def Token.push : Token.Reading → Char → Token.Reading
  | .inWord cs, c => .inWord (c :: cs)
  | _, c => .inWord [c]

/-- The words of a line; a `#` outside a string starts a comment (R120). `none` when a quoted string is not closed. -/
def Token.read : Token.Reading → List Char → Option (List Token)
  | .inString _, [] => none
  | r, [] => some (Token.close r)
  | .inString cs, c :: rest =>
    if c.toNat = 0x22 then (Token.read .between rest).map (Token.quoted cs.reverse :: ·)
    else Token.read (.inString (c :: cs)) rest
  | r, '-' :: '>' :: rest => (Token.read .between rest).map (Token.close r ++ Token.arrow :: ·)
  | r, c :: rest =>
    if c.toNat = 0x22 then (Token.read (.inString []) rest).map (Token.close r ++ ·)
    else if c = '#' then some (Token.close r)
    else if c = ',' then (Token.read .between rest).map (Token.close r ++ Token.comma :: ·)
    else if c = ':' then (Token.read .between rest).map (Token.close r ++ Token.colon :: ·)
    else if c = ' ' ∨ c.toNat = 0x09 then (Token.read .between rest).map (Token.close r ++ ·)
    else Token.read (Token.push r c) rest

/-! ## Operands -/

/-- The value of a hexadecimal digit. -/
def Script.hexDigit (c : Char) : Option Nat :=
  if '0' ≤ c ∧ c ≤ '9' then some (c.toNat - 0x30)
  else if 'A' ≤ c ∧ c ≤ 'F' then some (c.toNat - 0x41 + 10)
  else if 'a' ≤ c ∧ c ≤ 'f' then some (c.toNat - 0x61 + 10)
  else none

/-- The value of a decimal digit. -/
def Script.decDigit (c : Char) : Option Nat := if '0' ≤ c ∧ c ≤ '9' then some (c.toNat - 0x30) else none

/-- Digits in a base, most significant first. -/
def Script.digits (base : Nat) (digit : Char → Option Nat) : Nat → List Char → Option Nat
  | v, [] => some v
  | v, c :: cs =>
    match digit c with
    | some d => Script.digits base digit (base * v + d) cs
    | none => none

/-- A number: decimal, or hexadecimal after `0x`. -/
def Script.number : List Char → Option Nat
  | [] => none
  | ['0', 'x'] => none
  | '0' :: 'x' :: cs => Script.digits 16 Script.hexDigit 0 cs
  | cs => Script.digits 10 Script.decDigit 0 cs

/-- The registers by name (R40, R47 to R55). -/
def Script.registers : List (String × Byte) :=
  [("ID", 0x00), ("CTRL", 0x01), ("START", 0x02), ("STATUS", 0x03), ("FAULT", 0x04), ("FAULT_INFO", 0x05),
    ("AC_CHAR", 0x06), ("AC_CLEAR", 0x07), ("AC_LEN", 0x08), ("AC_LO", 0x09), ("AC_HI", 0x0A), ("THRESHOLD", 0x0B),
    ("SPS", 0x0C), ("BPS", 0x0D), ("POOL_SIZE", 0x0E), ("BLOB_CAP", 0x0F), ("QUEUE_CAP", 0x10), ("ALIGN_SAMPLES", 0x11),
    ("WHITENER", 0x12), ("ENC_RESID", 0x13), ("Q_COUNT", 0x14), ("POOL_FREE", 0x15), ("DEC_LAST", 0x16), ("CNT_TX", 0x17),
    ("CNT_OK", 0x18), ("CNT_FAIL", 0x19)]

/-- A number that fits `w` bits. -/
def Script.value (w : Nat) : List Token → Option (BitVec w)
  | [.word cs] =>
    match Script.number cs with
    | some v => if v < 2 ^ w then some (BitVec.ofNat w v) else none
    | none => none
  | _ => none

/-- A register address: a name or a number. -/
def Script.address : List Token → Option Byte
  | [.word cs] =>
    match Script.registers.find? fun r => r.1.toList == cs with
    | some r => some r.2
    | none => Script.value 8 [.word cs]
  | _ => none

/-- A hex pair. -/
def Script.hexPair : Token → Option Byte
  | .word [a, b] =>
    match Script.hexDigit a, Script.hexDigit b with
    | some x, some y => some (BitVec.ofNat 8 (16 * x + y))
    | _, _ => none
  | _ => none

/-- The ASCII code of a character. -/
def Script.ascii (c : Char) : Option Byte := if c.toNat < 128 then some (BitVec.ofNat 8 c.toNat) else none

/-- A byte sequence: hex pairs separated by spaces, or a quoted ASCII string. -/
def Script.byteSeq : List Token → Option (List Byte)
  | [.quoted cs] => cs.mapM Script.ascii
  | ts => ts.mapM Script.hexPair

/-- A quoted string of `0` and `1`. -/
def Script.bitSeq : List Token → Option Bits
  | [.quoted cs] => cs.mapM fun c => if c = '0' then some false else if c = '1' then some true else none
  | _ => none

/-- The operands of a line, cut at its commas; a line without a word behind the mnemonic has none. -/
def Script.operands : List Token → List (List Token)
  | [] => []
  | .comma :: ts =>
    match Script.operands ts with
    | [] => [[], []]
    | g :: gs => [] :: g :: gs
  | t :: ts =>
    match Script.operands ts with
    | [] => [[t]]
    | g :: gs => (t :: g) :: gs

/-! ## Lines -/

/-- The operations of a mnemonic with its operands. A byte sequence implies its length operand, which may also be written out
and must then be right (R120). R121 does not say whether the operand of `RX.BYTE` is a number or a hex pair; it is read as a number, as every
operand that is no byte sequence: `RX.BYTE 10` is 0x0A (DESIGN CHOICE, log entry 21). -/
def Script.operation (mnemonic : String) (ops : List (List Token)) : Option (List Instr) :=
  match mnemonic, ops with
  | "NOP", [] => some [.nop]
  | "CFG.WR", [a, d] => do some [.cfgWr (← Script.address a) (← Script.value 32 d)]
  | "CFG.RD", [a] => do some [.cfgRd (← Script.address a)]
  | "SYS.RESET", [] => some [.sysReset]
  | "TX.MSG", [p] => do some [.txMsg (← Script.byteSeq p)]
  | "TX.MSG", [l, p] => do
    let n ← Script.value 16 l
    let p ← Script.byteSeq p
    if n.toNat = p.length then some [.txMsg p] else none
  | "TX.CTRL", [] => some [.txCtrl]
  | "TX.CLOSE", [] => some [.txClose]
  | "TX.PULL", [c] => do some [.txPull (← Script.value 24 c)]
  | "RX.BIT", [b] => do
    let v ← Script.value 1 b
    some [.rxBit (v.getLsbD 0)]
  | "SYNC.PUSH", [] => some [.syncPush]
  | "Q.ENQ", [l, p] => do some [.qEnq (← Script.value 24 l) (← Script.byteSeq p)]
  | "Q.ENQ", [l, c, p] => do
    let l ← Script.value 24 l
    let n ← Script.value 24 c
    let p ← Script.byteSeq p
    if n.toNat = p.length then some [.qEnq l p] else none
  | "Q.DEQ", [] => some [.qDeq]
  | "Q.CLOSE", [] => some [.qClose]
  | "POOL.ACQ", [r] => do some [.poolAcq (← Script.value 8 r)]
  | "POOL.ACQNB", [r] => do some [.poolAcqnb (← Script.value 8 r)]
  | "POOL.REL", [i] => do some [.poolRel (← Script.value 16 i)]
  | "POOL.CLOSE", [] => some [.poolClose]
  | "BLOB.RD", [i, o] => do some [.blobRd (← Script.value 16 i) (← Script.value 16 o)]
  | "BLOB.LEN", [i] => do some [.blobLen (← Script.value 16 i)]
  | "PIPE.FETCH", [] => some [.pipeFetch]
  | "PIPE.ACQUIRE", [] => some [.pipeAcquire]
  | "PIPE.EMIT", [] => some [.pipeEmit]
  | "RX.TAKE", [] => some [.rxTake]
  | "CFG.AC", [s] => do some (Script.cfgAc (← Script.byteSeq s))
  | "CFG.START", [] => some Script.cfgStart
  | "RX.BYTE", [v] => do some (Script.rxByte (← Script.value 8 v))
  | "RX.BYTES", [p] => do some (Script.rxBytes (← Script.byteSeq p))
  | "RX.BITS", [s] => do some (Script.rxBits (← Script.bitSeq s))
  | "TX.SEND", [p] => do some (Script.txSend (← Script.byteSeq p))
  | _, _ => none

/-- The agents a script can name (R120). -/
def Script.agents : List (String × Agent) :=
  [("HOST", .host), ("APP_TX", .appTx), ("MOD", .mod), ("DEMOD", .demod), ("APP_RX", .appRx), ("SYNC", .sync), ("PIPE", .pipe)]

/-- The agent of a name. -/
def Script.agentOf (cs : List Char) : Option Agent := (Script.agents.find? fun a => a.1.toList == cs).map (·.2)

/-- What a line of a script says: who does what, and what the script expects of it. -/
structure Script.Line where
  agent : Agent
  instrs : List Instr
  /-- The words behind `->`, which a test checks; no step reads them. -/
  expected : List Token
  deriving DecidableEq, Repr

/-- A line that is not blank: `AGENT: MNEMONIC operand, operand, ... -> result` (R120). A line whose operation no record can hold, such as
a message of more than 65535 bytes, is no line. -/
def Script.parse (ts : List Token) : Option Script.Line :=
  match ts.takeWhile (· != .arrow) with
  | .word a :: .colon :: .word m :: ops => do
    let agent ← Script.agentOf a
    let is ← Script.operation (String.ofList m) (Script.operands ops)
    if is.all Instr.wellFormed = false then none
    else some { agent := agent, instrs := is, expected := (ts.dropWhile (· != .arrow)).drop 1 }
  | _ => none

/-- The lines of a text, without the line feeds. -/
def Script.lines : List Char → List (List Char)
  | [] => [[]]
  | c :: cs =>
    if c.toNat = 0x0A then [] :: Script.lines cs
    else
      match Script.lines cs with
      | [] => [[c]]
      | l :: ls => (c :: l) :: ls

/-- A whole text; blank lines and comments hold no operation. `none` when some line is no script line. -/
def Script.read (text : List Char) : Option (List Script.Line) :=
  (Script.lines text).foldr
    (fun l acc =>
      match Token.read .between l, acc with
      | some [], some ls => some ls
      | some ts, some ls => (Script.parse ts).map (· :: ls)
      | _, _ => none)
    (some [])

/-- The records a line presents (R110). -/
def Script.Line.choice (l : Script.Line) : Choice := .present l.agent (l.instrs.flatMap encode)

/-- The machine with a script of lines to be presented. -/
def State.withScript (s : State) (ls : List Script.Line) : State := s.setEnv { s.env with script := ls.map Script.Line.choice }

end Sys2Proof.Machine
end

