-- ==== Sys2Proof/Tests/Slice0.lean ====
section
/-!
SUPPORT. Tests: ill-formed operations are refused, each constructor decodes from a record written out from the spec's format, the
codec gives the spec's check values, each operation does one step as its rule's example or a hand calculation says, and each
statement's hypotheses are met by a concrete state, clause by clause.
-/

set_option Elab.async false

namespace Sys2Proof.Tests

open Sys2Proof.Machine

/-! ## WellFormed: the two checks refuse -/

/-- One byte more than the LENGTH field can state (R101). -/
theorem test_wellFormed_refuses_long_message : Instr.wellFormed (.txMsg (List.replicate 65536 0)) = false := by
  rw [Instr.wellFormed, List.length_replicate]
  decide +kernel

theorem test_wellFormed_admits_longest_message : Instr.wellFormed (.txMsg (List.replicate 65535 0)) = true := by
  rw [Instr.wellFormed, List.length_replicate]
  decide +kernel

/-- One byte more than `RAW_MAX` (R127). -/
theorem test_wellFormed_refuses_long_packet : Instr.wellFormed (.qEnq 0 (List.replicate 65544 0)) = false := by
  rw [Instr.wellFormed, List.length_replicate]
  decide +kernel

theorem test_wellFormed_admits_longest_packet : Instr.wellFormed (.qEnq 0 (List.replicate 65543 0)) = true := by
  rw [Instr.wellFormed, List.length_replicate]
  decide +kernel

/-! ## Decoding: records written out from R111 and R112 (most of them examples of the rules or of `95_test_vectors.md` 2.2) -/

theorem test_decode_nop : decode [0x00] = .ok (.nop, []) := by decide
theorem test_decode_cfgWr : decode [0x01, 0x0B, 0x12, 0x34, 0x56, 0x78] = .ok (.cfgWr 0x0B 0x12345678, []) := by decide
theorem test_decode_cfgRd : decode [0x02, 0x13] = .ok (.cfgRd 0x13, []) := by decide
theorem test_decode_sysReset : decode [0x0F] = .ok (.sysReset, []) := by decide
theorem test_decode_txMsg : decode [0x10, 0x00, 0x01, 0x41, 0xEE] = .ok (.txMsg [0x41], [0xEE]) := by decide
theorem test_decode_txCtrl : decode [0x11] = .ok (.txCtrl, []) := by decide
theorem test_decode_txClose : decode [0x12] = .ok (.txClose, []) := by decide
theorem test_decode_txPull : decode [0x13, 0x01, 0x02, 0x03] = .ok (.txPull 0x010203, []) := by decide
theorem test_decode_rxBit : decode [0x20, 0x01] = .ok (.rxBit true, []) := by decide
theorem test_decode_syncPush : decode [0x22] = .ok (.syncPush, []) := by decide
theorem test_decode_qEnq : decode [0x30, 0x01, 0x00, 0x02, 0x00, 0x00, 0x02, 0xAA, 0xBB] = .ok (.qEnq 0x010002 [0xAA, 0xBB], []) := by
  decide
theorem test_decode_qDeq : decode [0x31] = .ok (.qDeq, []) := by decide
theorem test_decode_qClose : decode [0x32] = .ok (.qClose, []) := by decide
theorem test_decode_poolAcq : decode [0x40, 0x01] = .ok (.poolAcq 1, []) := by decide
theorem test_decode_poolAcqnb : decode [0x41, 0x03] = .ok (.poolAcqnb 3, []) := by decide
theorem test_decode_poolRel : decode [0x42, 0x01, 0x02] = .ok (.poolRel 0x0102, []) := by decide
theorem test_decode_poolClose : decode [0x43] = .ok (.poolClose, []) := by decide
theorem test_decode_blobRd : decode [0x44, 0x01, 0x02, 0x03, 0x04] = .ok (.blobRd 0x0102 0x0304, []) := by decide
theorem test_decode_blobLen : decode [0x45, 0x00, 0x07] = .ok (.blobLen 7, []) := by decide
theorem test_decode_pipeFetch : decode [0x50] = .ok (.pipeFetch, []) := by decide
theorem test_decode_pipeAcquire : decode [0x51] = .ok (.pipeAcquire, []) := by decide
theorem test_decode_pipeEmit : decode [0x52] = .ok (.pipeEmit, []) := by decide
theorem test_decode_rxTake : decode [0x60] = .ok (.rxTake, []) := by decide

theorem test_decode_refuses_reserved_bit : decode [0x20, 0x02] = .error (.bitOperandReserved 2) := by decide
theorem test_decode_refuses_opcode : decode [0x21] = .error (.noSuchOpcode 0x21) := by decide
/-- cnt = 65544 (R127). -/
theorem test_decode_refuses_cnt : decode [0x30, 0, 0, 0, 0x01, 0x00, 0x08] = .error (.packetTooLong 0x010008) := by decide
theorem test_decode_truncated : decode [0x10, 0x00, 0x02, 0x41] = .error .truncated := by decide
theorem test_decode_trace : decodeTrace 3 [0x00, 0x40, 0x01, 0x60] = .ok [.nop, .poolAcq 1, .rxTake] := by decide

/-- The eight-bit table row of `BLOB.RD`, its operands zero. -/
theorem test_tableWord : decodeTableWord 8 0x44 = some (.blobRd 0 0) := by decide

theorem test_fetchWord_runs :
    (match step (State.reset.withFetchWord 8 0x12) with | .next t => t.tx.srcClosed | _ => false) = true := by decide +kernel

/-! ## Scripts (R120, R121) -/

theorem test_script_line :
    Script.read "HOST: CFG.WR THRESHOLD, 0x05 -> Done # note".toList =
      some [{ agent := .host, instrs := [.cfgWr 0x0B 5], expected := [.word ['D', 'o', 'n', 'e']] }] := by
  decide +kernel

/-- A register by its name in R40. -/
theorem test_script_register :
    Script.read "HOST: CFG.RD ALIGN_SAMPLES".toList =
      some [{ agent := .host, instrs := [.cfgRd 0x11], expected := [] }] := by
  decide +kernel

theorem test_script_bytes :
    Script.read "DEMOD: Q.ENQ 2, 2, 0A fF".toList =
      some [{ agent := .demod, instrs := [.qEnq 2 [0x0A, 0xFF]], expected := [] }] := by
  decide +kernel

/-- `RX.BYTE 0x81`: the most significant bit first. -/
theorem test_script_rxByte :
    Script.rxByte 0x81 =
      [.rxBit true, .rxBit false, .rxBit false, .rxBit false, .rxBit false, .rxBit false, .rxBit false, .rxBit true] := by
  decide

/-! ## The codec: check values of `40_codec.md` and of `95_test_vectors.md` 2.1 -/

/-- "HELLO". -/
def hello : List Byte := [0x48, 0x45, 0x4C, 0x4C, 0x4F]

/-- The access code `"1010101010101010"`. -/
def code16 : Bits := bits [0xAA, 0xAA]

theorem test_pn : (List.range 16).map pn =
    [0xFF, 0xE1, 0x1D, 0x9A, 0xED, 0x85, 0x33, 0x24, 0xEA, 0x7A, 0xD2, 0x39, 0x70, 0x97, 0x57, 0x0A] := by decide +kernel

/-- `crc32("123456789")` (R136). -/
theorem test_crc : crc32 [0x31, 0x32, 0x33, 0x34, 0x35, 0x36, 0x37, 0x38, 0x39] = 0xCBF43926 := by decide +kernel

/-- R134's example. -/
theorem test_whiten : whiten hello 3 = [0xD2, 0xA8, 0xC9, 0x7F, 0x6B] := by decide +kernel

/-- R140's examples. -/
theorem test_modulus : [alignModulus 128 2 1, alignModulus 128 3 2, alignModulus 128 7 8, alignModulus 128 128 5, alignModulus 1 8 3] =
    [64, 256, 1024, 40, 24] := by decide +kernel

/-- Vector V1. -/
theorem test_encode_V1 : encodeFrame 128 hello 2 1 code16 0 =
    [0xAA, 0xAA, 0x10, 0x01, 0x00, 0x05, 0xB7, 0xA4, 0x51, 0xD6, 0xA2, 0xD1, 0xC8, 0x54, 0xD9, 0x55] := by decide +kernel

/-- Vector V4: a 3-bit access code, so nothing behind it is byte-aligned. -/
theorem test_encode_V4 : encodeFrame 128 [0x41] 1 1 [true, false, true] 15 =
    [0xA3, 0xE0, 0xC0, 0x00, 0x29, 0x63, 0x27, 0x3D, 0x1A, 0xAA, 0xAA, 0xAA, 0xAA, 0xAA, 0xAA, 0xAA] := by decide +kernel

/-- The RawPacket of V1 (R146's example). -/
def raw1 : List Byte := [0x10, 0x01, 0x00, 0x05, 0xB7, 0xA4, 0x51, 0xD6, 0xA2, 0xD1, 0xC8, 0x54, 0xD9]

theorem test_decodePacket_ok : decodePacket raw1 13 = .ok hello := by decide +kernel
theorem test_decodePacket_hint : decodePacket raw1 12 = .fail .lengthInconsistent := by decide +kernel
theorem test_decodePacket_crc : decodePacket (raw1.set 5 0xA5) 13 = .fail .crcMismatch := by decide +kernel
theorem test_decodePacket_version : decodePacket (raw1.set 0 0x20) 13 = .fail .badVersion := by decide +kernel

/-- "102" is invalid (R130). -/
theorem test_accessCode_invalid : validateAccessCode [0x31, 0x30, 0x32] = none := by decide

theorem test_accessCode_value : accessCodeValue defaultAccessCode = 0xACDDA4E2F28C20FC := by decide +kernel

/-! ## Small states -/

/-- Two Blobs of four bytes, one queue slot, byte-and-symbol alignment, four requester ids. -/
def small : Build := { poolSize := 2, blobCap := 4, queueCap := 1, alignSamples := 1, reqIds := 4 }

/-- After reset, with the agent `a` about to act. -/
def fresh (a : Agent) : State := { State.resetWith small with env := { Env.reset with agent := a } }

/-- In mode RUN with the access code `"101"` and threshold 0. -/
def running (a : Agent) : State :=
  { fresh a with
    mode := .run
    cfg := { Cfg.reset with ac := [true, false, true], n := 3, acv := 5, mask := 7, threshold := 0 } }

/-- In mode FAILED, with the fault that led there. -/
def failed (a : Agent) : State := { fresh a with mode := .failed, fault := 1, faultInfo := 3 }

/-- The next state, if there is one. -/
def after : StepOutcome → Option State
  | .next t => some t
  | .fault _ => none
  | .refused _ => none

/-- The codes and results returned. -/
def answers (o : StepOutcome) : List (Code × Result) :=
  match o with
  | .next t => t.env.replies.map fun r => (r.code, r.result)
  | .fault _ => []
  | .refused _ => []

/-- The running state with another pool, pipeline, queue, Sync unit or transmit half. -/
def withPool (a : Agent) (f : Pool → Pool) : State := { running a with pool := f (running a).pool }
def withPipe (a : Agent) (f : Pipe → Pipe) : State := { running a with pipe := f (running a).pipe }
def withQueue (a : Agent) (f : Queue → Queue) : State := { running a with queue := f (running a).queue }
def withSync (a : Agent) (f : Sync → Sync) : State := { running a with sync := f (running a).sync }
def withTx (a : Agent) (f : Tx → Tx) : State := { running a with tx := f (running a).tx }

/-- An external correlator drives the queue. -/
def external (a : Agent) : State := { running a with cfg := { (running a).cfg with extSink := true } }

/-- A packet that decodes to the empty payload: `10 00 00 00` and its CRC (`95_test_vectors.md` 2.1). -/
def emptyPacket : RawPacket := { bytes := [0x10, 0x00, 0x00, 0x00, 0x71, 0x5D, 0x88, 0x83], length := 8 }

/-- Both Blobs in use. -/
def drained (p : Pool) : Pool := { p with free := [], blobs := [{ inuse := true, len := 0 }, { inuse := true, len := 3 }] }

/-! ## One step of each operation -/

theorem test_nop : answers (exec .nop (fresh .enc)) = [(.done, .none)] := by decide +kernel

theorem test_cfgWr_sps : (after (exec (.cfgWr 0x0C 255) (fresh .host))).map (·.cfg.sps) = some 255 := by decide +kernel
/-- An out-of-range value is ignored (R54). -/
theorem test_cfgWr_range : after (exec (.cfgWr 0x0C 256) (fresh .host)) = after (exec (.cfgWr 0x1A 256) (fresh .host)) ∨
    (after (exec (.cfgWr 0x0C 256) (fresh .host))).map (·.cfg.sps) = some 2 := by decide +kernel

theorem test_cfgRd_id : answers (exec (.cfgRd 0x00) (fresh .host)) = [(.done, .word 0x47580001)] := by decide +kernel
theorem test_cfgRd_status : answers (exec (.cfgRd 0x03) { running .host with pipe := { (running .host).pipe with outMsg := some .fail } }) =
    [(.done, .word 0x2001)] := by decide +kernel

theorem test_sysReset : (after (exec .sysReset (failed .host))).map (fun t => (t.mode, t.fault, t.pool.free)) =
    some (.setup, 0, [0, 1]) := by decide +kernel

theorem test_txMsg : (after (exec (.txMsg [0x41]) (running .appTx))).map (·.tx.srcQ) = some [.payload [0x41]] := by decide +kernel
theorem test_txCtrl_closed :
    answers (exec .txCtrl (withTx .appTx fun t => { t with srcClosed := true })) = [(.sourceClosed, .none)] := by decide +kernel
theorem test_txClose : (after (exec .txClose (fresh .appTx))).map (·.tx.srcClosed) = some true := by decide +kernel

/-- "A" with the code `101`, sps 2, bps 1 and byte alignment: core 75 bits, P = 5, the first bytes `A2 00 00`. -/
theorem test_txPull_frames :
    answers (exec (.txPull 3) (withTx .mod fun t => { t with srcQ := [.control, .payload [0x41]] })) =
      [(.done, .pull 3 false [0xA2, 0x00, 0x00])] := by decide +kernel
theorem test_txPull_closes :
    answers (exec (.txPull 8) (withTx .mod fun t => { t with srcQ := [.control], srcClosed := true })) =
      [(.sourceClosed, .pull 0 true [])] := by decide +kernel

/-- The third bit completes `101`. -/
theorem test_rxBit_match :
    (after (exec (.rxBit true) (withSync .demod fun y => { y with sr := 2, fill := 2 }))).map (fun t => (t.sync.state, t.sync.sr, t.sync.fill)) =
      some (.header, 5, 3) := by decide +kernel
/-- The last bit of a capture enqueues it. -/
theorem test_rxBit_capture :
    (after (exec (.rxBit true) (withSync .demod fun y =>
      { y with state := .payload, cap := [0x10, 0, 0, 0, 1, 2, 3], need := 8, acc := 2, bcnt := 7 }))).map
        (fun t => (t.sync.state, t.queue.q)) =
      some (.search, [{ bytes := [0x10, 0, 0, 0, 1, 2, 3, 5], length := 8 }]) := by decide +kernel

theorem test_syncPush :
    (after (exec .syncPush (withSync .sync fun y => { y with state := .push, cap := [1], need := 1, fill := 9 }))).map
        (fun t => (t.sync.state, t.sync.fill, t.queue.q)) = some (.search, 0, [{ bytes := [1], length := 1 }]) := by decide +kernel

theorem test_qEnq :
    (after (exec (.qEnq 9 [1, 2]) (external .demod))).map (·.queue.q) = some [{ bytes := [1, 2], length := 9 }] := by decide +kernel
/-- A `Q.ENQ` that waited in mode SETUP is woken by the close although `ext_sink` has been cleared since (R12, C10). -/
theorem test_qEnq_woken_by_close :
    answers (step ((withQueue .host fun q => { q with closed := true }).setEnv { Env.reset with
      script := [.resume 0], pending := [{ agent := .demod, instr := .qEnq 9 [1] }] })) = [(.queueClosed, .none)] := by decide +kernel
theorem test_qDeq :
    (after (exec .qDeq (withQueue .pipe fun q => { q with q := [emptyPacket] }))).map
        (fun t => (t.queue.q, t.pipe.res, t.env.replies.map (·.result))) = some ([], .ok [], [.packet emptyPacket]) := by
  decide +kernel
/-- A stopped pipeline dequeues nothing (R247, R336 a). -/
theorem test_qDeq_stopped :
    (after (exec .qDeq { withQueue .pipe (fun q => { q with q := [emptyPacket] }) with
      pipe := { (running .pipe).pipe with state := .stopped, stop := .poolClosed } })).map (·.queue.q) = some [emptyPacket] := by
  decide +kernel
theorem test_qClose : (after (exec .qClose (fresh .demod))).map (·.queue.closed) = some true := by decide +kernel

theorem test_poolAcq :
    (after (exec (.poolAcq 1) (running .appRx))).map (fun t => (t.pool.free, t.pool.inUse 0, t.pool.inUse 1)) =
      some ([1], true, false) := by decide +kernel
theorem test_poolAcq_suspends :
    (after (exec (.poolAcq 2) (withPool .appRx drained))).map (fun t => (t.pool.waiters, t.env.replies)) = some ([2], []) := by
  decide +kernel
theorem test_poolAcqnb_empty : answers (exec (.poolAcqnb 3) (withPool .appRx drained)) = [(.empty, .none)] := by decide +kernel

/-- A release serves the oldest waiter, whose completion comes first (R218's example). -/
theorem test_poolRel_hands_over :
    answers (exec (.poolRel 0) (withPool .appRx fun p => { drained p with waiters := [2, 3] })) =
      [(.done, .index 0), (.done, .none)] := by decide +kernel
theorem test_poolRel_double :
    (after (exec (.poolRel 1) (running .appRx))).map (fun t => (t.fault, t.faultInfo)) = some (4, 0x02000001) := by decide +kernel
theorem test_poolClose :
    answers (exec .poolClose (withPool .host fun p => { drained p with waiters := [1, 3] })) =
      [(.poolClosed, .index 0), (.poolClosed, .index 0), (.done, .none)] := by decide +kernel

/-- Byte 1 of Blob 1, which holds "HEL". -/
theorem test_blobRd :
    answers (exec (.blobRd 1 1) (withPool .appRx fun p => { drained p with mem := [(65536, 0x48), (65537, 0x45), (65538, 0x4C)] })) =
      [(.done, .byte 0x45)] := by decide +kernel
theorem test_blobLen : answers (exec (.blobLen 1) (withPool .appRx drained)) = [(.done, .length 3)] := by decide +kernel

theorem test_pipeFetch :
    (after (exec .pipeFetch (withQueue .pipe fun q => { q with q := [emptyPacket] }))).map
        (fun t => (t.pipe.state, t.pipe.res, t.pipe.decLast, t.queue.q)) = some (.decoded, .ok [], 1, []) := by decide +kernel
/-- Five bytes do not fit a Blob of four: fault 1, and Blob 0 goes to the back of the free list (R282). -/
theorem test_pipeAcquire_tooLarge :
    (after (exec .pipeAcquire (withPipe .pipe fun p => { p with state := .decoded, res := .ok hello }))).map
        (fun t => (t.pipe.state, t.fault, t.faultInfo, t.pool.free)) = some (.waitPacket, 2, 0x01000005, [1, 0]) := by
  decide +kernel
theorem test_pipeAcquire_fills :
    (after (exec .pipeAcquire (withPipe .pipe fun p => { p with state := .decoded, res := .ok [0x48, 0x49] }))).map
        (fun t => (t.pipe.state, t.pipe.blob, t.pool.mem.read 1, t.pool.free)) =
      some (.filled, (0, 2), some 0x49, [1]) := by decide +kernel
theorem test_pipeEmit :
    (after (exec .pipeEmit (withPipe .pipe fun p => { p with state := .filled, blob := (1, 3) }))).map
        (fun t => (t.pipe.outMsg, t.pipe.cntOk, t.pipe.state)) = some (some (.ok 1 3), 1, .waitPacket) := by decide +kernel
theorem test_rxTake :
    answers (exec .rxTake (withPipe .appRx fun p => { p with outMsg := some (.ok 1 3) })) = [(.done, .message (.ok 1 3))] := by
  decide +kernel
theorem test_rxTake_stopped :
    answers (exec .rxTake (withPipe .appRx fun p => { p with state := .stopped, stop := .poolClosed })) = [(.poolClosed, .none)] := by
  decide +kernel

/-- A release while the pipeline waits copies its payload (R243). -/
theorem test_release_serves_pipeline :
    (after (exec (.poolRel 1) { withPool .appRx (fun p => { drained p with waiters := [0] }) with
      pipe := { (running .appRx).pipe with state := .waitBlob, res := .ok [0x48] } })).map
        (fun t => (t.pipe.state, t.pipe.blob, t.pool.blen 1, t.pool.mem.read 65536)) = some (.filled, (1, 1), 1, some 0x48) := by
  decide +kernel

/-! ## States that keep the invariant -/

theorem running_inUse (a : Agent) (idx : Index) : (running a).pool.inUse idx = false := by
  have : (running a).pool.blobs = List.replicate 2 { inuse := false, len := 0 } := rfl
  rw [Pool.inUse, this, List.getElem?_replicate]
  split <;> rename_i h <;> split at h <;> simp_all
  exact h ▸ rfl

theorem running_blen (a : Agent) (idx : Index) : (running a).pool.blen idx = 0 := by
  have : (running a).pool.blobs = List.replicate 2 { inuse := false, len := 0 } := rfl
  rw [Pool.blen, this, List.getElem?_replicate]
  split <;> rename_i h <;> split at h <;> simp_all
  exact h ▸ rfl

theorem running_inv (a : Agent) : Inv (running a) where
  build := by show Build.legal small; decide
  cfg :=
    { chars := by show 0 ≤ 65; decide
      threshold := by show 0 ≤ 64; decide
      sps := by show 1 ≤ 2; decide
      bps := by show 1 ≤ 1 ∧ 1 ≤ 8; decide
      committed := fun _ => ⟨⟨by show 1 ≤ 3; decide, by show 3 ≤ 64; decide⟩, rfl,
        by show (5 : BitVec 64) = accessCodeValue [true, false, true]; decide +kernel,
        by show (7 : BitVec 64) = accessCodeMask 3; decide +kernel⟩
      uncommitted := fun h => absurd rfl h }
  fault :=
    { failed := ⟨fun h => (nomatch h), fun h => absurd h (by show ¬ (0 : BitVec 5).getLsbD 0 = true; decide)⟩, info := fun _ => rfl }
  tx :=
    { cursor := ⟨Nat.le_refl 0, Nat.le_refl 0⟩
      payloads := fun _ h => (nomatch h)
      closed := fun h => (nomatch h)
      offset := rfl
      idle := fun h => absurd rfl h }
  sync :=
    { fill := Nat.zero_le _
      header := fun h => (nomatch h)
      need := fun h => h.elim (fun h => nomatch h) (fun h => nomatch h)
      payload := fun h => (nomatch h)
      push := fun h => (nomatch h)
      empty := fun _ => rfl
      idle := fun h => absurd rfl h }
  queue := { room := Nat.zero_le _, packets := fun _ h => (nomatch h), idle := fun _ => rfl }
  pool :=
    { size := rfl
      freeDistinct := by show ([0, 1] : List Index).Nodup; decide
      freeIff := fun idx => by
        rw [running_inUse]
        show idx ∈ ([0, 1] : List Index) ↔ idx.toNat < 2 ∧ false = false
        have h0 : idx = 0 ↔ idx.toNat = 0 := by rw [← BitVec.toNat_inj]; rfl
        have h1 : idx = 1 ↔ idx.toNat = 1 := by rw [← BitVec.toNat_inj]; rfl
        simp only [List.mem_cons, List.not_mem_nil, or_false, h0, h1, and_true]
        omega
      waitersDistinct := List.nodup_nil
      waitersIds := fun _ h => (nomatch h)
      waiting := fun h => absurd rfl h
      lengths := fun idx => by rw [running_blen]; exact Nat.zero_le _
      freeLength := fun idx _ => running_blen a idx
      pipeWaits := ⟨fun h => (nomatch h), fun h => (nomatch h)⟩
      idle := fun h => absurd rfl h }
  mem := { canonical := rfl, written := fun idx k h => by rw [running_blen] at h; exact absurd h (Nat.not_lt_zero _) }
  pipe :=
    { payload := fun p h => by cases h; exact Nat.zero_le _
      holds := fun h => (nomatch h)
      stop := ⟨fun h => (nomatch h), fun h => absurd rfl h⟩
      idle := fun h => absurd rfl h }
  pending := { ports := fun _ h => (nomatch h), distinct := List.Pairwise.nil, issuers := fun _ h => (nomatch h) }

/-- A running state with another queue keeps the invariant when the queue does. -/
theorem withQueue_inv (a : Agent) (f : Queue → Queue) (h : QueueInv (withQueue a f)) : Inv (withQueue a f) :=
  { running_inv a with
    cfg := (running_inv a).cfg.congr rfl rfl, fault := (running_inv a).fault.congr rfl rfl rfl
    tx := (running_inv a).tx.congr rfl rfl rfl, sync := (running_inv a).sync.congr rfl rfl, queue := h
    pool := (running_inv a).pool.congr rfl rfl rfl rfl, mem := (running_inv a).mem.congr rfl
    pipe := (running_inv a).pipe.congr rfl rfl, pending := (running_inv a).pending.congr rfl }

/-- A running state with another Sync unit keeps the invariant when the unit does. -/
theorem withSync_inv (a : Agent) (f : Sync → Sync) (h : SyncInv (withSync a f)) : Inv (withSync a f) :=
  { running_inv a with
    cfg := (running_inv a).cfg.congr rfl rfl, fault := (running_inv a).fault.congr rfl rfl rfl
    tx := (running_inv a).tx.congr rfl rfl rfl, sync := h, queue := (running_inv a).queue.congr rfl rfl rfl
    pool := (running_inv a).pool.congr rfl rfl rfl rfl, mem := (running_inv a).mem.congr rfl
    pipe := (running_inv a).pipe.congr rfl rfl, pending := (running_inv a).pending.congr rfl }

/-- Blob 0 in use with nothing in it, Blob 1 free. -/
def held (a : Agent) : State :=
  withPool a fun p => { p with free := [1], blobs := [{ inuse := true, len := 0 }, { inuse := false, len := 0 }] }

theorem held_blob (a : Agent) (idx : Index) :
    (held a).pool.inUse idx = decide (idx.toNat = 0) ∧ (held a).pool.blen idx = 0 := by
  have hb : (held a).pool.blobs = [{ inuse := true, len := 0 }, { inuse := false, len := 0 }] := rfl
  rw [Pool.inUse, Pool.blen, hb]
  match idx.toNat with
  | 0 => exact ⟨rfl, rfl⟩
  | 1 => exact ⟨rfl, rfl⟩
  | n + 2 => exact ⟨rfl, rfl⟩

theorem held_inv (a : Agent) : Inv (held a) :=
  { running_inv a with
    cfg := (running_inv a).cfg.congr rfl rfl, fault := (running_inv a).fault.congr rfl rfl rfl
    tx := (running_inv a).tx.congr rfl rfl rfl, sync := (running_inv a).sync.congr rfl rfl
    queue := (running_inv a).queue.congr rfl rfl rfl
    pool :=
      { size := rfl
        freeDistinct := by show ([1] : List Index).Nodup; decide
        freeIff := fun idx => by
          rw [(held_blob a idx).1]
          show idx ∈ ([1] : List Index) ↔ idx.toNat < 2 ∧ decide (idx.toNat = 0) = false
          have h1 : idx = 1 ↔ idx.toNat = 1 := by rw [← BitVec.toNat_inj]; rfl
          rw [List.mem_singleton, h1, decide_eq_false_iff_not]
          omega
        waitersDistinct := List.nodup_nil
        waitersIds := fun _ h => (nomatch h)
        waiting := fun h => absurd rfl h
        lengths := fun idx => by rw [(held_blob a idx).2]; exact Nat.zero_le _
        freeLength := fun idx _ => (held_blob a idx).2
        pipeWaits := ⟨fun h => (nomatch h), fun h => (nomatch h)⟩
        idle := fun h => absurd rfl h }
    mem :=
      { canonical := rfl
        written := fun idx k h => by rw [(held_blob a idx).2] at h; exact absurd h (Nat.not_lt_zero _) }
    pipe := (running_inv a).pipe.congr rfl rfl, pending := (running_inv a).pending.congr rfl }

/-- Rotation on, with seventeen frames built. -/
def rotating : State :=
  { running .mod with cfg := { (running .mod).cfg with useWo := true }, tx := { Tx.reset [] with cntTx := 17, woff := 1 } }

theorem rotating_inv : Inv rotating :=
  { running_inv .mod with
    cfg :=
      { chars := (running_inv .mod).cfg.chars, threshold := (running_inv .mod).cfg.threshold, sps := (running_inv .mod).cfg.sps
        bps := (running_inv .mod).cfg.bps, committed := (running_inv .mod).cfg.committed
        uncommitted := (running_inv .mod).cfg.uncommitted }
    fault := (running_inv .mod).fault.congr rfl rfl rfl
    tx :=
      { cursor := ⟨Nat.le_refl 0, Nat.le_refl 0⟩, payloads := fun _ h => (nomatch h), closed := fun h => (nomatch h)
        offset := by show (1 : BitVec 4) = (17 : BitVec 32).setWidth 4; decide
        idle := fun h => absurd rfl h }
    sync := (running_inv .mod).sync.congr rfl rfl, queue := (running_inv .mod).queue.congr rfl rfl rfl
    pool := (running_inv .mod).pool.congr rfl rfl rfl rfl, mem := (running_inv .mod).mem.congr rfl
    pipe := (running_inv .mod).pipe.congr rfl rfl, pending := (running_inv .mod).pending.congr rfl }

/-- A correlator that has seen 64 zero bits. -/
def listening : State := withSync .demod fun y => { y with fill := 64 }

theorem listening_inv : Inv listening :=
  withSync_inv .demod _
    { fill := Nat.le_refl 64
      header := fun h => (nomatch h)
      need := fun h => h.elim (fun h => nomatch h) (fun h => nomatch h)
      payload := fun h => (nomatch h)
      push := fun h => (nomatch h)
      empty := fun _ => rfl
      idle := fun h => absurd rfl h }

/-- A packet of four payload bytes, as many as fit a Blob of `small`. -/
def fullPacket : RawPacket :=
  { bytes := ((encodeFrame 1 [1, 2, 3, 4] 2 1 code16 0).drop 2).take 12, length := 12 }

/-- That packet waits in the queue. -/
def delivering : State := withQueue .pipe fun q => { q with q := [fullPacket] }

theorem delivering_inv : Inv delivering :=
  withQueue_inv .pipe _
    { room := Nat.le_refl 1
      packets := fun rp h => by
        obtain rfl := List.mem_singleton.1 h
        decide +kernel
      idle := fun h => absurd rfl h }

/-! ## The hypotheses of every statement are met, clause by clause -/

/-- An outcome that is a next state. -/
theorem next_of_after {o : StepOutcome} (h : (after o).isSome = true) : ∃ t, o = .next t := by
  match o, h with
  | .next t, _ => exact ⟨t, rfl⟩

/-- An outcome that is a next state with a property. -/
theorem next_of_check {o : StepOutcome} {P : State → Prop} [∀ s, Decidable (P s)]
    (h : (after o).any (fun t => decide (P t)) = true) : ∃ t, o = .next t ∧ P t := by
  match o, h with
  | .next t, h => exact ⟨t, rfl, of_decide_eq_true h⟩

theorem witness_DecodeInvertsEncode :
    Instr.wellFormed (.txMsg (List.replicate 65535 0)) = true ∧ Instr.wellFormed (.qEnq 0xFFFFFF (List.replicate 65543 0)) = true ∧
      Instr.wellFormed (.blobRd 0xFFFF 0xFFFF) = true := by
  refine ⟨test_wellFormed_admits_longest_message, ?_, rfl⟩
  rw [Instr.wellFormed, List.length_replicate]
  decide +kernel

theorem witness_DecodedBytesAreTheRecord : decode [0x40, 0x01, 0xFF] = .ok (.poolAcq 1, [0xFF]) := by decide

/-- One message offered and the source closed. -/
def lastMessage : State := withTx .mod fun t => { t with srcQ := [.payload [0x41]], srcClosed := true }

/-- An operation of the agent is outstanding. -/
def busy (a : Agent) (i : Instr) : State := (running a).setEnv { (running a).env with pending := [{ agent := a, instr := i }] }

/-- An outstanding operation of the agent is attempted again. -/
def again (a : Agent) : State := (running a).setEnv { (running a).env with again := true }

theorem witness_UnformableOperationsRefused :
    (0x03 : Byte) ∉ ([0x00, 0x01, 0x02, 0x0F, 0x10, 0x11, 0x12, 0x13, 0x20, 0x22, 0x30, 0x31, 0x32, 0x40, 0x41, 0x42, 0x43, 0x44,
      0x45, 0x50, 0x51, 0x52, 0x60] : List Byte) ∧
    (2 : Byte).extractLsb' 1 7 ≠ 0 ∧ 65543 < (0x010008 : BitVec 24).toNat ∧ (running .demod).cfg.extSink = false ∧
    (running .demod).env.again = false ∧
    (let s := (running .host).setEnv { Env.reset with script := [.present .demod (encode (.qEnq 0 []))] };
      s.cfg.extSink = false ∧ s.env.schedule = .oracle ∧ s.env.script = .present .demod (encode (.qEnq 0 [])) :: [] ∧
        decode (encode (.qEnq 0 [])) = .ok (.qEnq 0 [], [])) ∧
    (running .appRx).build.reqIds ≤ (4 : ReqId).toNat ∧ (running .appRx).env.agent ≠ .pipe ∧
    (Instr.qClose ≠ .nop ∧ (running .appRx).env.agent ≠ issuerOf .qClose ∧ (running .appRx).env.agent ≠ .demod) ∧
    (let s := (running .host).setEnv { Env.reset with script := [.present .host [0x21]] };
      s.env.schedule = .oracle ∧ s.env.script = .present .host [0x21] :: [] ∧ decode [0x21] = .error (.noSuchOpcode 0x21)) ∧
    ((⟨.host, .cfgRd 1⟩ : Request) ∈ (busy .host (.cfgRd 1)).env.pending ∧ portOf (.cfgRd 0) ≠ none ∧
      portOf (.cfgRd 1) = portOf (.cfgRd 0)) ∧
    ((⟨.appRx, .rxTake⟩ : Request) ∈ (busy .appRx .rxTake).env.pending ∧ portOf .rxTake ≠ none) ∧
    ((3 : ReqId) ≠ 0 ∧ 3 ∈ (withPool .appRx fun p => { drained p with waiters := [3] }).pool.waiters) := by
  decide +kernel

theorem witness_StepRunsDecodedRecord_resume :
    (let s := (running .host).setEnv { (busy .mod (.txPull 1)).env with script := [.resume 0] };
      s.env.schedule = .oracle ∧ s.env.script = .resume 0 :: [] ∧ s.env.pending[0]? = some ⟨.mod, .txPull 1⟩ ∧
        s.enabled (.txPull 1) = false) ∧
    (let s := lastMessage.setEnv { (busy .mod (.txPull 1)).env with script := [.resume 0] };
      s.env.schedule = .oracle ∧ s.env.pending[0]? = some ⟨.mod, .txPull 1⟩ ∧ s.enabled (.txPull 1) = true) := by
  decide +kernel

theorem witness_StepRunsDecodedRecord :
    let s := (running .host).setEnv { Env.reset with script := [.present .host [0x02, 0x00, 0x0F]] };
    s.env.schedule = .oracle ∧ s.env.script = .present .host [0x02, 0x00, 0x0F] :: [] ∧
      decode [0x02, 0x00, 0x0F] = .ok (.cfgRd 0, [0x0F]) ∧ (Instr.cfgRd 0).wellFormed = true := by
  decide +kernel

/-- The state with the eager schedule, a pass standing at `t` and some outstanding operations. -/
def eagerly (s : State) (t : Internal) (pending : List Request) : State :=
  s.setEnv { s.env with schedule := .eager, turn := t, pending := pending }

/-- The first clause at k = 0 and k = 3, then the other two. -/
theorem witness_EagerScheduleOrder :
    (let s := eagerly (withQueue .pipe fun q => { q with q := [emptyPacket] }) .pipeFetch [];
      s.env.schedule = .eager ∧ 0 < 4 ∧ s.enabled s.env.turn.instr = true) ∧
    (let s := eagerly (withQueue .pipe fun q => { q with q := [emptyPacket] }) .pipeAcquire [];
      s.env.schedule = .eager ∧ 3 < 4 ∧ (∀ j < 3, s.enabled (Internal.succ^[j] s.env.turn).instr = false) ∧
        s.enabled (Internal.succ^[3] s.env.turn).instr = true) ∧
    (let s := eagerly (withTx .mod fun t => { t with srcClosed := true }) .syncPush
        [⟨.appRx, .rxTake⟩, ⟨.mod, .txPull 1⟩];
      s.env.schedule = .eager ∧ (∀ t : Internal, s.enabled t.instr = false) ∧
        s.env.pending = [⟨.appRx, .rxTake⟩] ++ ⟨.mod, .txPull 1⟩ :: [] ∧
        (∀ r ∈ ([⟨.appRx, .rxTake⟩] : List Request), s.enabled r.instr = false) ∧ s.enabled (.txPull 1) = true) ∧
    (let s := eagerly (running .mod) .pipeEmit [⟨.appRx, .rxTake⟩];
      s.env.schedule = .eager ∧ (∀ t : Internal, s.enabled t.instr = false) ∧ ∀ r ∈ s.env.pending, s.enabled r.instr = false) := by
  refine ⟨by decide +kernel, by decide +kernel, ⟨rfl, ?_, by decide +kernel⟩, ⟨rfl, ?_, by decide +kernel⟩⟩ <;>
    (intro t; cases t <;> decide +kernel)

theorem witness_AccessCodeValidationAndValue :
    ([0x31, 0x30, 0x31] : List Byte) ≠ [] ∧ ([0x32] : List Byte) ≠ [] ∧ defaultAccessCode.length ≤ 64 ∧ ([true] : Bits).length ≤ 64 ∧
      63 < defaultAccessCode.length ∧ ([true] : Bits).length ≤ 1 := by
  decide +kernel

theorem witness_MatchBoundsHammingDistance :
    (let c := (running .demod).cfg;
      ([true, false, true] : Bits).length ≤ 64 ∧ c.acv = accessCodeValue [true, false, true] ∧ c.mask = accessCodeMask 3) ∧
    (let c : Cfg := { (running .demod).cfg with acv := 0xACDDA4E2F28C20FC, mask := BitVec.allOnes 64, threshold := 64 };
      defaultAccessCode.length ≤ 64 ∧ c.acv = accessCodeValue defaultAccessCode ∧ c.mask = accessCodeMask defaultAccessCode.length ∧
        defaultAccessCode.length ≤ c.threshold.toNat) := by
  decide +kernel

theorem witness_WhiteningPointwiseAndInvolutive : 4 < hello.length := by decide

theorem witness_AlignmentAndPadding :
    (1 ≤ 1 ∧ 1 ≤ 255 ∧ 1 ≤ 8) ∧ 0 < alignModulus 128 2 1 ∧ 128 % alignModulus 128 2 1 = 0 ∧
      alignModulus 128 2 1 ∣ 120 + padBits 64 120 ∧ padBits 64 120 = 8 := by
  decide +kernel

theorem witness_FrameLayout :
    (1 ≤ 65535 ∧ 1 ≤ 255 ∧ 1 ≤ 8 ∧ 1 ≤ ([true] : Bits).length ∧ ([true] : Bits).length ≤ 64 ∧
        (List.replicate 65535 (0 : Byte)).length ≤ 65535) ∧
      1 ≤ defaultAccessCode.length ∧ defaultAccessCode.length ≤ 64 ∧ ([] : List Byte).length ≤ 65535 := by
  rw [List.length_replicate]
  decide +kernel

/-- The four classes at their boundaries: 7 and 8 bytes, VER 2, one byte less than 8 + L, exactly 8 + L. -/
theorem witness_PacketDecoderClassifies :
    min raw1.length (7 : BitVec 24).toNat < 8 ∧
    (8 ≤ min raw1.length (8 : BitVec 24).toNat ∧ (((raw1.set 0 0x20)[0]?).getD 0).toNat / 16 ≠ 1) ∧
    (8 ≤ min raw1.length (12 : BitVec 24).toNat ∧ ((raw1[0]?).getD 0).toNat / 16 = 1 ∧
      min raw1.length (12 : BitVec 24).toNat < 8 + (256 * ((raw1[2]?).getD 0).toNat + ((raw1[3]?).getD 0).toNat)) ∧
    8 + (256 * ((raw1[2]?).getD 0).toNat + ((raw1[3]?).getD 0).toNat) ≤ min raw1.length (13 : BitVec 24).toNat := by
  decide +kernel

/-- The shortest cut, and a cut with one byte of padding behind the trailer. -/
theorem witness_RoundTripLaw :
    (1 ≤ code16.length ∧ code16.length ≤ 64 ∧ hello.length ≤ 65535 ∧ 8 + hello.length ≤ raw1.length ∧
      bits raw1 = ((bits (encodeFrame 128 hello 2 1 code16 0)).drop code16.length).take (8 * raw1.length) ∧
      8 + hello.length ≤ (13 : BitVec 24).toNat) ∧
    (let raw := raw1 ++ [0x55];
      8 + hello.length ≤ raw.length ∧
        bits raw = ((bits (encodeFrame 128 hello 2 1 code16 0)).drop code16.length).take (8 * raw.length) ∧
        8 + hello.length ≤ (0xFFFFFF : BitVec 24).toNat) := by
  decide +kernel

theorem witness_SingleByteErrorDetected :
    decodePacket raw1 13 = .ok hello ∧ (1 = 1 ∧ 1 < 8 + hello.length ∧ raw1[1]? ≠ some 2) ∧
      (4 ≤ 4 ∧ 4 < 8 + hello.length ∧ raw1[4]? ≠ some 0xB6) ∧ (4 ≤ 12 ∧ 12 < 8 + hello.length ∧ raw1[12]? ≠ some 0xD8) := by
  decide +kernel

theorem witness_EveryBurstOf32BitsDetected :
    let raw' := raw1.set 5 0xA5;
    decodePacket raw1 13 = .ok hello ∧ raw'.length = raw1.length ∧ raw' ≠ raw1 ∧
      (∀ j, j < 40 ∨ 40 + 32 ≤ j ∨ 8 * (8 + hello.length) ≤ j → (bits raw')[j]? = (bits raw1)[j]?) ∧
      ∀ j, j < 4 ∨ (16 ≤ j ∧ j < 32) → (bits raw')[j]? = (bits raw1)[j]? := by
  have low : ∀ j < 104, j < 40 ∨ 72 ≤ j → (bits (raw1.set 5 0xA5))[j]? = (bits raw1)[j]? := by decide +kernel
  have all : ∀ j, j < 40 ∨ 72 ≤ j → (bits (raw1.set 5 0xA5))[j]? = (bits raw1)[j]? := fun j hj => by
    by_cases h : j < 104
    · exact low j h hj
    · have h1 : (bits (raw1.set 5 0xA5)).length = 104 := by decide +kernel
      have h2 : (bits raw1).length = 104 := by decide +kernel
      rw [List.getElem?_eq_none (by omega), List.getElem?_eq_none (by omega)]
  refine ⟨by decide +kernel, by decide +kernel, by decide +kernel, fun j hj => all j ?_, fun j hj => all j (by omega)⟩
  have : hello.length = 5 := rfl
  omega

theorem witness_RegisterReadCompletes : Presentable (.cfgRd 0x03) (running .host) := by decide +kernel

theorem witness_StatusRegisterFields : Presentable (.cfgWr 0x03 1) (running .host) := by decide +kernel

theorem witness_IdentityFaultAndBuildRegisters :
    (running .host).build.legal ∧ (0x11 : Byte) ∈ ([0x00, 0x04, 0x05, 0x0E, 0x0F, 0x10, 0x11] : List Byte) ∧
      Presentable (.cfgWr 0x11 1) (running .host) := by
  decide +kernel

theorem witness_OccupancyAndCounterRegisters :
    Inv (running .host) ∧ (running .host).tx.resid.length < 16777216 ∧ 0x12 ≤ (0x12 : Byte).toNat ∧
      Presentable (.cfgWr 0x12 1) (running .host) ∧ Presentable (.cfgWr 0xFF 1) (running .host) ∧ 0x1A ≤ (0x1A : Byte).toNat ∧
      ({ poolSize := 65535, blobCap := 65535, queueCap := 255, alignSamples := 65535, reqIds := 256 } : Build).legal :=
  ⟨running_inv .host, by decide +kernel⟩

theorem witness_AccessCodeReadback :
    (running .host).mode = .run ∧ (fresh .host).mode ≠ .run ∧ (failed .host).mode ≠ .run ∧
      (List.replicate 65 (0x31 : Byte)).length ≤ 65 ∧ Presentable (.cfgWr 0x0A 0) (running .host) := by
  decide +kernel

theorem witness_ConfigurationWriteInSetup :
    (fresh .host).mode = .setup ∧
      ∀ addr ∈ ([0x01, 0x0B, 0x0C, 0x0D, 0x06, 0x07] : List Byte), Presentable (.cfgWr addr 64) (fresh .host) := by
  decide +kernel

theorem witness_LockedAndIgnoredWrites :
    (∀ addr ∈ ([0x01, 0x0B, 0x0C, 0x0D, 0x06, 0x07] : List Byte),
      (running .host).mode ≠ .setup ∧ Presentable (.cfgWr addr 0) (running .host) ∧ (failed .host).mode ≠ .setup ∧
        (failed .host).fault ≠ 0 ∧ Presentable (.cfgWr addr 0) (failed .host)) ∧
    (0x02 : Byte) ∉ ([0x01, 0x0B, 0x0C, 0x0D, 0x06, 0x07] : List Byte) ∧
    ((2 : Word).getLsbD 0 = false ∧ Presentable (.cfgWr 0x02 2) (fresh .host)) ∧ (failed .host).mode ≠ .setup ∧
    (0xFF : Byte) ∉ ([0x01, 0x0B, 0x0C, 0x0D, 0x06, 0x07] : List Byte) := by
  decide +kernel

/-- In mode SETUP with these access-code characters. -/
def withChars (cs : List Byte) : State := (fresh .host).setCfg { Cfg.reset with acChars := cs }

theorem witness_StartCommit :
    (withChars [0x31]).mode = .setup ∧ (3 : Word).getLsbD 0 = true ∧ Presentable (.cfgWr 0x02 3) (withChars [0x31]) ∧
      validateAccessCode (withChars [0x31]).cfg.acChars = some [true] ∧
      validateAccessCode (withChars []).cfg.acChars = some defaultAccessCode ∧
      validateAccessCode (withChars (List.replicate 65 0x31)).cfg.acChars = none ∧
      validateAccessCode (withChars [0x32]).cfg.acChars = none ∧
      Presentable (.cfgWr 0x02 1) (withChars [0x32]) := by
  decide +kernel

theorem witness_ResetRestoresTheResetState :
    Presentable .sysReset (fresh .host) ∧ Presentable .sysReset (running .host) ∧ Presentable .sysReset (failed .host) := by
  decide +kernel

theorem witness_RaiseFaultCapturesTheFirst : (failed .host).fault ≠ 0 ∧ (fresh .host).fault = 0 := by decide

theorem witness_ResetValues : small.legal ∧ Build.default.legal := by decide

theorem witness_MessageOffered :
    Presentable .txCtrl (running .appTx) ∧ Presentable (.txMsg hello) (running .appTx) ∧ (running .appTx).mode = .run ∧
      (running .appTx).tx.srcClosed = false ∧
      (let s := withTx .appTx fun t => { t with srcClosed := true };
        Presentable .txCtrl s ∧ Presentable (.txMsg []) s ∧ s.mode = .run ∧ s.tx.srcClosed = true) := by
  decide +kernel

theorem witness_SourceAndQueueClose :
    Presentable .txClose (running .appTx) ∧ Presentable .txClose (failed .appTx) ∧ Presentable .qClose (running .host) ∧
      Presentable .qClose (fresh .demod) := by
  decide +kernel

theorem witness_PullFramesTheNextMessage :
    let s := withTx .mod fun t => { t with srcQ := [.control, .payload hello, .payload []] };
    Presentable (.txPull 0) s ∧ Presentable (.txPull 0xFFFFFF) s ∧ s.mode = .run ∧ s.tx.encClosed = false ∧ s.tx.resid = [] ∧
      (∀ c ∈ ([.control] : List SrcItem), c = .control) ∧ s.tx.srcQ = [.control] ++ .payload hello :: [.payload []] := by
  decide +kernel

theorem witness_PullDrainsThenSignalsTheEnd :
    (let s := withTx .mod fun t => { t with encBuf := [1, 2, 3], encRd := 2, encEnd := 3 };
      Presentable (.txPull 0) s ∧ s.mode = .run ∧ s.tx.encClosed = false ∧ s.tx.resid ≠ []) ∧
    (let s := withTx .mod fun t => { t with srcClosed := true, encClosed := true };
      Presentable (.txPull 1) s ∧ s.mode = .run ∧ s.tx.encClosed = true) ∧
    (let s := withTx .mod fun t => { t with srcQ := [.control], srcClosed := true };
      Presentable (.txPull 1) s ∧ s.mode = .run ∧ s.tx.encClosed = false ∧ s.tx.resid = [] ∧
        (∀ c ∈ s.tx.srcQ, c = .control) ∧ s.tx.srcClosed = true) := by
  decide +kernel

/-- Two pulls take the frame, a third closes the encoder. -/
theorem witness_StreamLaw :
    (∃ data t, pullAll [3, 0xFFFFFF, 1] lastMessage = some (data, t) ∧ t.tx.encClosed = true) ∧ TxInv lastMessage := by
  constructor
  · have h : (pullAll [3, 0xFFFFFF, 1] lastMessage).any (fun r => r.2.tx.encClosed) = true := by decide +kernel
    match hp : pullAll [3, 0xFFFFFF, 1] lastMessage with
    | some (data, t) => rw [hp] at h; exact ⟨data, t, rfl, h⟩
    | none => rw [hp] at h; exact absurd h (by decide)
  · exact
      { cursor := ⟨Nat.le_refl 0, Nat.le_refl 0⟩
        payloads := fun p h => by
          obtain h := List.mem_singleton.1 h
          cases h
          decide
        closed := fun h => (nomatch h)
        offset := rfl
        idle := fun h => absurd rfl h }

theorem witness_OffsetRotation :
    (Inv rotating ∧ rotating.mode = .run ∧ rotating.cfg.useWo = true ∧ hello.length ≤ 65535) ∧
      Inv (running .mod) ∧ (running .mod).cfg.useWo = false :=
  ⟨⟨rotating_inv, rfl, rfl, by decide⟩, running_inv .mod, rfl⟩

theorem witness_BitDiscardedOrSearched :
    (Presentable (.rxBit true) (external .demod) ∧ (external .demod).mode = .run ∧ (external .demod).sync.state ≠ .push ∧
      (external .demod).cfg.extSink = true) ∧
    (let s := withSync .demod fun y => { y with state := .stopped };
      Presentable (.rxBit false) s ∧ s.mode = .run ∧ s.sync.state ≠ .push ∧ s.sync.state = .stopped) ∧
    (Presentable (.rxBit true) listening ∧ listening.mode = .run ∧ listening.cfg.extSink = false ∧
      listening.sync.state = .search) := by
  decide +kernel

theorem witness_BitInHeader :
    let s := withSync .demod fun y => { y with state := .header, hcnt := 31, hdr := 0x08000000 };
    Presentable (.rxBit true) s ∧ s.mode = .run ∧ s.cfg.extSink = false ∧ s.sync.state = .header := by
  decide +kernel

/-- The last bit but one of a byte, the last of a byte, and the last of the capture with the queue closed, open and full. -/
theorem witness_BitInPayload :
    let at' := fun (bcnt : BitVec 4) (need : BitVec 17) (q : Queue) =>
      { withSync .demod (fun y => { y with state := .payload, cap := [0x10, 0, 0, 0, 1, 2, 3], need := need, bcnt := bcnt }) with
        queue := q };
    (∀ s ∈ ([at' 6 8 Queue.reset, at' 7 9 Queue.reset, at' 7 8 { q := [], closed := true }, at' 7 8 Queue.reset,
        at' 7 8 { q := [emptyPacket], closed := false }] : List State),
      Presentable (.rxBit true) s ∧ s.mode = .run ∧ s.cfg.extSink = false ∧ s.sync.state = .payload) ∧
    (6 : BitVec 4) + 1 ≠ 8 ∧ (7 : BitVec 4) + 1 = 8 ∧
    ((at' 7 9 Queue.reset).sync.cap ++ [0]).length ≠ (at' 7 9 Queue.reset).sync.need.toNat ∧
    ((at' 7 8 Queue.reset).sync.cap ++ [0]).length = (at' 7 8 Queue.reset).sync.need.toNat ∧
    (at' 7 8 Queue.reset).queue.q.length < (at' 7 8 Queue.reset).build.queueCap ∧
    (at' 7 8 { q := [emptyPacket], closed := false }).build.queueCap ≤ [emptyPacket].length := by
  decide +kernel

theorem witness_PushRetriesTheEnqueue :
    let at' := fun (q : Queue) =>
      { withSync .sync (fun y => { y with state := .push, cap := emptyPacket.bytes, need := 8 }) with queue := q };
    ∀ s ∈ ([at' Queue.reset, at' { q := [], closed := true }] : List State),
      Presentable .syncPush s ∧ s.mode = .run ∧ s.sync.state = .push ∧ s.queue.q.length < s.build.queueCap := by
  decide +kernel

/-- The empty payload, to a unit that has seen 64 zeros: no earlier window matches the code `101`. -/
theorem witness_FrameIsDelimited :
    let s := listening;
    Inv s ∧ s.mode = .run ∧ s.cfg.extSink = false ∧ s.sync.state = .search ∧ s.queue.closed = false ∧
      s.queue.q.length < s.build.queueCap ∧ s.env.pending = [] ∧ ([] : List Byte).length ≤ 65535 ∧ 1 ≤ 2 ∧ 1 ≤ 1 ∧
      (let frame := encodeFrame s.build.alignSamples [] 2 1 s.cfg.ac 0;
        let core := (bits frame).take (s.cfg.n.toNat + 64 + 8 * 0);
        let shift : Nat → BitVec 64 := fun k =>
          (core.take k).foldl (fun sr b => (sr <<< 1) ||| BitVec.ofNat 64 b.toNat) s.sync.sr;
        ∀ k, 1 ≤ k → k < s.cfg.n.toNat → s.cfg.n.toNat ≤ s.sync.fill.toNat + k → acMatch s.cfg (shift k) = false) := by
  refine ⟨listening_inv, rfl, rfl, rfl, rfl, by decide, rfl, by decide, by decide, by decide, ?_⟩
  intro frame core shift k _ hk _
  have h : ∀ k < 3, acMatch listening.cfg (shift k) = false := by decide +kernel
  exact h k hk

theorem witness_QueueIsFirstInFirstOut :
    (Presentable (.qEnq 9 [1]) (external .demod) ∧ (external .demod).mode = .run ∧ (external .demod).cfg.extSink = true ∧
      (external .demod).queue.closed = false ∧ (external .demod).queue.q.length < (external .demod).build.queueCap) ∧
    (let s := (external .demod).setQueue { q := [emptyPacket], closed := true };
      Presentable (.qEnq 9 [1]) s ∧ s.mode = .run ∧ s.cfg.extSink = true ∧ s.queue.closed = true) ∧
    (let s := (again .demod).setQueue { q := [], closed := true };
      Presentable (.qEnq 9 [1]) s ∧ s.mode = .run ∧ s.cfg.extSink = false ∧ s.env.again = true ∧ s.queue.closed = true) ∧
    (let s := withQueue .pipe fun q => { q with q := [emptyPacket] };
      Presentable .qDeq s ∧ s.mode = .run ∧ s.pipe.state = .waitPacket ∧ s.queue.q = emptyPacket :: []) ∧
    (let s := withQueue .pipe fun q => { q with closed := true };
      Presentable .qDeq s ∧ s.mode = .run ∧ s.pipe.state = .waitPacket ∧ s.queue.q = [] ∧ s.queue.closed = true) := by
  decide +kernel

theorem witness_ExternalAcquire :
    (∀ i ∈ ([.poolAcq 3, .poolAcqnb 3] : List Instr),
      ∀ s ∈ ([running .appRx, withPool .appRx drained, withPool .appRx fun p => { p with closed := true }] : List State),
        Presentable i s ∧ s.mode = .run ∧ (3 : ReqId).toNat < s.build.reqIds ∧ 3 ∉ s.pool.waiters) ∧
    (withPool .appRx fun p => { p with closed := true }).pool.closed = true ∧
    ((running .appRx).pool.closed = false ∧ (running .appRx).pool.free = 0 :: [1]) ∧
    ((withPool .appRx drained).pool.closed = false ∧ (withPool .appRx drained).pool.free = []) := by
  decide +kernel

/-- The indices 65535 and 2 name no Blob, Blob 1 is free; then nobody waits, and requester 1 waits first. -/
theorem witness_ReleaseFaultsFreesOrHandsOver :
    ((running .appRx).mode = .run ∧ Presentable (.poolRel 2) (running .appRx) ∧
      (running .appRx).build.poolSize ≤ (2 : Index).toNat ∧ Presentable (.poolRel 65535) (running .appRx)) ∧
    (Presentable (.poolRel 1) (running .appRx) ∧ (1 : Index).toNat < (running .appRx).build.poolSize ∧
      (running .appRx).pool.inUse 1 = false) ∧
    (let s := withPool .appRx drained;
      Presentable (.poolRel 1) s ∧ s.mode = .run ∧ (1 : Index).toNat < s.build.poolSize ∧ s.pool.inUse 1 = true ∧
        s.pool.waiters = []) ∧
    (let s := withPool .appRx fun p => { drained p with waiters := [1, 0] };
      Presentable (.poolRel 0) s ∧ s.mode = .run ∧ (0 : Index).toNat < s.build.poolSize ∧ s.pool.inUse 0 = true ∧
        s.pool.waiters = 1 :: [0] ∧ (1 : ReqId) ≠ 0) := by
  decide +kernel

/-- The pipeline waits first, for four payload bytes that fit a Blob or five that do not, alone or before requester 2. -/
theorem witness_ReleaseServesThePipeline :
    let at' := fun (p : List Byte) (rs : List ReqId) =>
      { withPool .appRx (fun x => { drained x with waiters := 0 :: rs }) with
        pipe := { (running .appRx).pipe with state := .waitBlob, res := .ok p } };
    (∀ s ∈ ([at' [1, 2, 3, 4] [2], at' hello [], at' hello [2]] : List State),
      Presentable (.poolRel 1) s ∧ s.mode = .run ∧ (1 : Index).toNat < s.build.poolSize ∧ s.pool.inUse 1 = true) ∧
    (at' [1, 2, 3, 4] [2]).pool.waiters = 0 :: [2] ∧ (at' [1, 2, 3, 4] [2]).pipe.res = .ok [1, 2, 3, 4] ∧
    ([1, 2, 3, 4] : List Byte).length ≤ small.blobCap ∧ small.blobCap < hello.length ∧ hello.length ≤ 65535 ∧
    (at' hello []).pool.waiters = 0 :: [] ∧ (at' hello [2]).pool.waiters = 0 :: 2 :: [] ∧ (2 : ReqId) ≠ 0 := by
  decide +kernel

theorem witness_PoolCloseWakesAllWaiters :
    Presentable .poolClose (withPool .host fun p => { drained p with waiters := [1, 0, 3] }) ∧ Presentable .poolClose (fresh .host) ∧
      Presentable .poolClose (failed .host) := by
  decide +kernel

theorem witness_BlobCopyReadsBack :
    (1 : Index).toNat < (running .pipe).pool.blobs.length ∧ hello.length ≤ 65535 ∧ (4 : Nat) < hello.length ∧ (0 : Index) ≠ 1 ∧
      hello.length ≤ 5 ∧ 65535 < 65536 := by
  decide +kernel

/-- Byte 2 of the three bytes of Blob 1; one behind them; a free Blob; an index that names no Blob. -/
theorem witness_BlobReads :
    (let s := withPool .appRx fun p => { drained p with mem := [(65536, 0x48), (65537, 0x45), (65538, 0x4C)] };
      Presentable (.blobRd 1 2) s ∧ s.mode = .run ∧ (1 : Index).toNat < s.build.poolSize ∧ s.pool.inUse 1 = true ∧
        (2 : BitVec 16).toNat < (s.pool.blen 1).toNat ∧ s.pool.mem.read (blobAddr 1 2) = some 0x4C ∧
        (s.pool.blen 1).toNat ≤ (3 : BitVec 16).toNat ∧ Presentable (.blobRd 1 3) s) ∧
    (Presentable (.blobRd 1 0) (running .appRx) ∧ (running .appRx).pool.inUse 1 = false) ∧
    (Presentable (.blobRd 2 0) (running .appRx) ∧ (running .appRx).build.poolSize ≤ (2 : Index).toNat) ∧
    (Presentable (.blobLen 1) (running .appRx) ∧ (1 : Index).toNat < (running .appRx).build.poolSize) ∧
    Presentable (.blobLen 2) (running .appRx) ∧ (running .appRx).build.poolSize ≤ (2 : Index).toNat := by
  decide +kernel

theorem witness_FetchDecodesTheOldest :
    (let s := withQueue .pipe fun q => { q with q := [emptyPacket], closed := true };
      Presentable .pipeFetch s ∧ s.mode = .run ∧ s.pipe.state = .waitPacket ∧ s.queue.q = emptyPacket :: []) ∧
    (let s := withQueue .pipe fun q => { q with closed := true };
      Presentable .pipeFetch s ∧ s.mode = .run ∧ s.pipe.state = .waitPacket ∧ s.queue.q = [] ∧ s.queue.closed = true) := by
  decide +kernel

/-- The pipeline has decoded `p`. -/
def decoded (p : List Byte) (f : Pool → Pool) : State :=
  { withPool .pipe f with pipe := { (running .pipe).pipe with state := .decoded, res := .ok p } }

theorem witness_PipelineAcquire :
    (∀ i ∈ ([.pipeAcquire, .poolAcq 0] : List Instr),
      ∀ s ∈ ([decoded hello fun p => { p with closed := true }, decoded hello drained, decoded [1, 2, 3, 4] id,
          decoded hello id] : List State),
        Presentable i s ∧ 1 ≤ s.build.reqIds ∧ s.mode = .run ∧ s.pipe.state = .decoded) ∧
    (decoded hello fun p => { p with closed := true }).pool.closed = true ∧ (decoded hello id).pipe.res = .ok hello ∧
    ((decoded hello drained).pool.closed = false ∧ (decoded hello drained).pool.free = []) ∧
    ((decoded [1, 2, 3, 4] id).pool.closed = false ∧ (decoded [1, 2, 3, 4] id).pool.free = 0 :: [1] ∧
      ([1, 2, 3, 4] : List Byte).length ≤ small.blobCap) ∧
    ((decoded hello id).pool.free = 0 :: [1] ∧ (decoded hello id).pool.waiters = [] ∧ small.blobCap < hello.length ∧
      hello.length ≤ 65535) := by
  decide +kernel

theorem witness_MessageEmittedAndTaken :
    (let s := withPipe .pipe fun p => { p with state := .filled, blob := (1, 3) };
      Presentable .pipeEmit s ∧ s.mode = .run ∧ s.pipe.outMsg = none ∧ s.pipe.state = .filled) ∧
    (let s := withPipe .pipe fun p => { p with state := .decoded, res := .fail .tooShort };
      Presentable .pipeEmit s ∧ s.mode = .run ∧ s.pipe.outMsg = none ∧ s.pipe.state = .decoded ∧
        s.pipe.res = .fail .tooShort) ∧
    (let s := withPipe .appRx fun p => { p with outMsg := some .fail };
      Presentable .rxTake s ∧ s.mode = .run ∧ s.pipe.outMsg = some .fail) ∧
    (let s := withPipe .appRx fun p => { p with state := .stopped, stop := .queueClosed };
      Presentable .rxTake s ∧ s.mode = .run ∧ s.pipe.outMsg = none ∧ s.pipe.state = .stopped ∧ s.pipe.stop = .queueClosed) ∧
    (let s := withPipe .appRx fun p => { p with state := .stopped, stop := .poolClosed };
      Presentable .rxTake s ∧ s.mode = .run ∧ s.pipe.outMsg = none ∧ s.pipe.state = .stopped ∧ s.pipe.stop = .poolClosed) := by
  decide +kernel

theorem witness_PayloadIsDelivered :
    let s := delivering;
    Inv s ∧ s.mode = .run ∧ s.pipe.state = .waitPacket ∧ s.pipe.outMsg = none ∧ s.pool.closed = false ∧ s.pool.free ≠ [] ∧
      s.queue.q = fullPacket :: [] ∧ decodePacket fullPacket.bytes fullPacket.length = .ok [1, 2, 3, 4] ∧
      ([1, 2, 3, 4] : List Byte).length ≤ s.build.blobCap ∧
      (∀ rq ∈ s.env.pending, portOf rq.instr ≠ some .out ∧ portOf rq.instr ≠ some .blob) :=
  ⟨delivering_inv, by decide +kernel⟩

/-- One state and operation for each line of the statement, in its order. -/
theorem witness_BlockedOperationHasNoEffect :
    (∀ x ∈ ([(.rxTake, fresh .appRx), (.txPull 0, running .mod),
        (.rxBit true, withSync .demod fun y => { y with state := .push }), (.syncPush, running .sync),
        (.syncPush, { withSync .sync (fun y => { y with state := .push }) with
          queue := { q := [emptyPacket], closed := false } }),
        (.qEnq 0 [], (external .demod).setQueue { q := [emptyPacket], closed := false }), (.qEnq 0 [], again .demod),
        (.qDeq, running .pipe),
        (.pipeFetch, running .pipe), (.pipeAcquire, running .pipe), (.poolAcq 0, running .pipe),
        (.pipeEmit, running .pipe), (.rxTake, running .appRx)] : List (Instr × State)),
      Presentable x.1 x.2 ∧ x.2.operandRefusal x.1 = none) ∧
    (dataPlane .rxTake = true ∧ (fresh .appRx).mode ≠ .run) ∧
    ((running .mod).tx.encClosed = false ∧ (running .mod).tx.resid = [] ∧ (∀ c ∈ (running .mod).tx.srcQ, c = .control) ∧
      (running .mod).tx.srcClosed = false) ∧
    (running .sync).sync.state ≠ .push ∧
    (running .pipe).build.queueCap ≤ [emptyPacket].length ∧
    ((again .demod).queue.closed = false ∧ (again .demod).cfg.extSink = false) ∧
    ((running .pipe).queue.closed = false ∧ (running .pipe).queue.q = []) ∧ (running .pipe).pipe.state ≠ .decoded ∧
    ((running .pipe).pipe.state ≠ .filled ∧ (running .pipe).pipe.state ≠ .decoded) ∧
    ((running .appRx).pipe.outMsg = none ∧ (running .appRx).pipe.state ≠ .stopped) := by
  decide +kernel

theorem witness_FaultsAreSticky :
    (∃ t, exec (.poolRel 1) (running .appRx) = .next t) ∧ (failed .host).fault ≠ 0 ∧
      ∃ t, exec (.cfgWr 0x0B 0) (failed .host) = .next t :=
  ⟨next_of_after (by decide +kernel), by decide, next_of_after (by decide +kernel)⟩

theorem witness_ModeAndConfigurationAreFrozen :
    ((running .host).mode ≠ .setup ∧ ∃ t, exec (.cfgWr 0x0B 0) (running .host) = .next t) ∧
      (∃ t, exec (.cfgWr 0x02 1) (withChars [0x31]) = .next t ∧ t.mode ≠ (withChars [0x31]).mode) ∧
      ∃ t, exec (.cfgWr 0x02 1) (withChars [0x32]) = .next t ∧ t.mode ≠ (withChars [0x32]).mode :=
  ⟨⟨by decide, next_of_after (by decide +kernel)⟩, next_of_check (by decide +kernel), next_of_check (by decide +kernel)⟩

theorem witness_ClosedAndStoppedAreTerminal :
    let s : State :=
      { running .pipe with
        tx := { Tx.reset [] with srcClosed := true, encClosed := true }, queue := { q := [emptyPacket], closed := true }
        pool := { (running .pipe).pool with closed := true }, sync := { Sync.reset with state := .stopped }
        pipe := { (running .pipe).pipe with state := .stopped, stop := .poolClosed } };
    (∃ t, exec .pipeFetch s = .next t) ∧ s.tx.srcClosed = true ∧ s.tx.encClosed = true ∧ s.queue.closed = true ∧ s.pool.closed = true ∧
      s.sync.state = .stopped ∧ 0 ∉ s.pool.waiters ∧ s.pipe.state = .stopped :=
  ⟨next_of_after (by decide +kernel), by decide +kernel⟩

theorem witness_HalvesAreIndependent :
    (issuerOf (.txPull 1) = .mod ∧ issuerOf .txClose = .appTx ∧ ∃ t, exec (.txPull 1) lastMessage = .next t) ∧
      (Instr.poolClose ∈ [.qClose, .poolClose] ∧ issuerOf .qDeq = .pipe ∧ issuerOf (.rxBit true) = .demod ∧ ∃ t, exec (.rxBit true) listening = .next t) ∧
      (let s' := { lastMessage with sync := listening.sync, queue := Queue.reset };
        s'.build = lastMessage.build ∧ s'.mode = lastMessage.mode ∧ s'.cfg = lastMessage.cfg ∧ s'.env = lastMessage.env ∧
          s'.tx = lastMessage.tx) ∧
      (let s' := { listening with tx := lastMessage.tx };
        s'.build = listening.build ∧ s'.mode = listening.mode ∧ s'.cfg = listening.cfg ∧ s'.env = listening.env ∧
          s'.sync = listening.sync ∧ s'.queue = listening.queue ∧ s'.pool = listening.pool ∧ s'.pipe = listening.pipe) :=
  ⟨⟨rfl, rfl, next_of_after (by decide +kernel)⟩, ⟨by decide, rfl, rfl, next_of_after (by decide +kernel)⟩, by decide +kernel⟩

theorem witness_BlobInUseIsStable :
    Inv (held .appRx) ∧ (held .appRx).pool.inUse 0 = true ∧ Instr.poolRel 1 ≠ .poolRel 0 ∧ Instr.poolRel 1 ≠ .sysReset ∧
      ∃ t, exec (.poolRel 1) (held .appRx) = .next t :=
  ⟨held_inv .appRx, by decide, by decide, by decide, next_of_after (by decide +kernel)⟩

theorem witness_BlobsAreConserved : Inv (held .appRx) := held_inv .appRx

theorem witness_InvariantHoldsAfterReset : Build.default.legal ∧ small.legal := by decide

/-- The queued packet is about to be fetched by its record. -/
theorem witness_EveryStepKeepsTheInvariant :
    let s := delivering.setEnv { delivering.env with script := [.present .pipe [0x50]] };
    Inv s ∧ ∃ t, step s = .next t ∧ t.pipe.state = .decoded :=
  ⟨delivering_inv.setEnv (.refl _), next_of_check (by decide +kernel)⟩

theorem witness_NoStepFaults : Inv delivering := delivering_inv

end Sys2Proof.Tests
end

section
/-!
The registers, the reset state, the waiting operations and the fault bits of `10_state.md`: the facts about each, and the statements
they settle.
-/

namespace Sys2Proof.Machine

/-! ## Register writes that are ignored (R49, R126, R261) -/

/-- A presentable `CFG.WR` is never blocked: it is the write of one register. -/
theorem exec_cfgWr {s : State} {addr : Byte} {data : Word} (h : Presentable (.cfgWr addr data) s) :
    exec (.cfgWr addr data) s = .next (s.accept.writeRegister addr data) :=
  exec_eq_effect h rfl rfl

/-- A write that neither names a lockable register nor commits (R266) only completes (R261). -/
theorem writeRegister_ignored {s : State} {addr : Byte} {data : Word} (hl : lockedAddress addr = false)
    (hs : ¬(addr = 0x02 ∧ s.mode = .setup ∧ data.getLsbD 0 = true)) :
    s.writeRegister addr data = s.complete .done .none := by
  rw [State.writeRegister, if_neg (by simp [hl]), if_neg hs]

/-- A write to a register that is neither lockable nor `START` is ignored in every mode. -/
theorem cfgWr_readOnly {s : State} {addr : Byte} {data : Word} (hl : lockedAddress addr = false) (hs : addr ≠ 0x02)
    (h : Presentable (.cfgWr addr data) s) : Answers (.cfgWr addr data) s .none := by
  rw [Answers, exec_cfgWr h, writeRegister_ignored hl fun hc => hs hc.1, accept_complete]

/-- No status register of R55 and no reserved address above them is lockable or `START`. -/
theorem not_writable_of_status {addr : Byte} (h : 0x12 ≤ addr.toNat) : lockedAddress addr = false ∧ addr ≠ 0x02 := by
  have hne : ∀ a : Byte, a.toNat < 0x12 → addr ≠ a := by
    rintro a ha rfl
    omega
  refine ⟨?_, hne _ (by decide)⟩
  simp only [lockedAddress, Bool.or_eq_false_iff, beq_eq_false_iff_ne]
  refine ⟨⟨⟨⟨⟨hne _ ?_, hne _ ?_⟩, hne _ ?_⟩, hne _ ?_⟩, hne _ ?_⟩, hne _ ?_⟩ <;> decide

/-! ## Register reads (R40, R47 to R55) -/

/-- A count shown in a register field shows in full while it fits the field (log entry 18). -/
theorem toNat_setWidth_ofNat {w n : Nat} (hw : w ≤ 32) (hn : n < 2 ^ w) : ((BitVec.ofNat w n).setWidth 32).toNat = n := by
  rw [BitVec.toNat_setWidth_of_le hw, BitVec.toNat_ofNat, Nat.mod_eq_of_lt hn]

/-- Above the last register of R55 every address is reserved and reads 0 (R126). -/
theorem regRead_reserved (s : State) {addr : Byte} (h : 0x1A ≤ addr.toNat) : s.regRead addr = 0 := by
  unfold State.regRead
  split
  case h_24 => rfl
  all_goals omega

/-- The pool invariant bounds the free list: its indices are distinct and name Blobs (R215 a). -/
theorem PoolInv.free_length_le {s : State} (h : PoolInv s) : s.pool.free.length ≤ s.build.poolSize := by
  have hnodup : (s.pool.free.map BitVec.toNat).Nodup :=
    h.freeDistinct.map fun _ _ => BitVec.eq_of_toNat_eq
  have hsub : s.pool.free.map BitVec.toNat ⊆ List.range s.build.poolSize := by
    intro k hk
    obtain ⟨idx, hidx, rfl⟩ := List.mem_map.1 hk
    exact List.mem_range.2 ((h.freeIff idx).1 hidx).1
  simpa using hnodup.length_le_of_subset hsub

/-- The STATUS word as a number: each field counts in units of the bits below it (R50). -/
theorem toNat_statusWord (s : State) :
    s.statusWord.toNat =
      16384 * s.pipe.stop.code.toNat + 8192 * s.pipe.outMsg.isSome.toNat + 4096 * s.pool.closed.toNat +
        2048 * s.queue.closed.toNat + 1024 * s.tx.srcClosed.toNat + 128 * s.pipe.state.code.toNat +
        16 * s.sync.state.code.toNat + 4 * s.tx.encState.code.toNat + s.mode.code.toNat := by
  unfold State.statusWord Pipe.outValid
  refine (toNat_append_eq _ s.mode.code).trans ?_
  simp only [toNat_append_eq, BitVec.toNat_ofBool, show (0 : BitVec 16).toNat = 0 from rfl]
  omega

/-- A run of bits of a word as a number. -/
theorem toNat_extractLsb'_word (v : Word) (start len : Nat) :
    (v.extractLsb' start len).toNat = v.toNat / 2 ^ start % 2 ^ len := by
  rw [BitVec.extractLsb'_toNat, Nat.shiftRight_eq_div_pow]

/-- The five fault bits stand in bits 4..0 of the `FAULT` word, zero above (R51). -/
theorem faultWord_fields (f : BitVec 5) :
    (f.setWidth 32).extractLsb' 0 5 = f ∧ (f.setWidth 32).extractLsb' 5 27 = 0 := by
  have hf := f.isLt
  have hword : (f.setWidth 32).toNat = f.toNat := BitVec.toNat_setWidth_of_le (by decide)
  have hzero : (0 : BitVec 27).toNat = 0 := rfl
  constructor
  all_goals
    refine BitVec.eq_of_toNat_eq ?_
    rw [toNat_extractLsb'_word]
    omega

/-- The bit `k` of a word that is `b.toNat` at that place. -/
theorem getLsbD_eq_of_toNat {v : Word} {k : Nat} {b : Bool} (h : v.toNat / 2 ^ k % 2 = b.toNat) : v.getLsbD k = b := by
  rw [BitVec.getLsbD, Nat.testBit_eq_decide_div_mod_eq, h]
  cases b <;> rfl

/-- The STATUS register by fields, as the model's codes (R50). -/
theorem statusWord_fields (s : State) :
    s.statusWord.extractLsb' 0 2 = s.mode.code ∧ s.statusWord.extractLsb' 2 2 = s.tx.encState.code ∧
      s.statusWord.extractLsb' 4 3 = s.sync.state.code ∧ s.statusWord.extractLsb' 7 3 = s.pipe.state.code ∧
      s.statusWord.getLsbD 10 = s.tx.srcClosed ∧ s.statusWord.getLsbD 11 = s.queue.closed ∧
      s.statusWord.getLsbD 12 = s.pool.closed ∧ s.statusWord.getLsbD 13 = s.pipe.outMsg.isSome ∧
      s.statusWord.extractLsb' 14 2 = s.pipe.stop.code ∧ s.statusWord.extractLsb' 16 16 = 0 := by
  have hw := toNat_statusWord s
  have hmode := s.mode.code.isLt
  have henc := s.tx.encState.code.isLt
  have hsync := s.sync.state.code.isLt
  have hpipe := s.pipe.state.code.isLt
  have hstop := s.pipe.stop.code.isLt
  have hsrc := s.tx.srcClosed.toNat_lt
  have hqueue := s.queue.closed.toNat_lt
  have hpool := s.pool.closed.toNat_lt
  have hout := s.pipe.outMsg.isSome.toNat_lt
  have hzero : (0 : BitVec 16).toNat = 0 := rfl
  refine ⟨?_, ?_, ?_, ?_, ?_, ?_, ?_, ?_, ?_, ?_⟩
  case refine_5 | refine_6 | refine_7 | refine_8 =>
    refine getLsbD_eq_of_toNat ?_
    omega
  all_goals
    refine BitVec.eq_of_toNat_eq ?_
    rw [toNat_extractLsb'_word]
    omega

/-- `enc_state` as its number: Closed before Draining before Idle (R30). -/
theorem encState_code (t : Tx) : t.encState.code = if t.encClosed then 2 else if t.resid ≠ [] then 1 else 0 := by
  unfold Tx.encState
  split
  · rfl
  · split <;> rfl

/-! ## The register statements -/

/-- Settles O19: the fields of `statusWord_fields`, each code being the number the rule gives the state. -/
theorem statusRegisterFields : Obligations.StatusRegisterFields := by
  refine ⟨fun s => ?_, fun s data h => cfgWr_readOnly rfl (by decide) h,
    fun b => BitVec.eq_of_toNat_eq ((toNat_statusWord (State.resetWith b)).trans rfl)⟩
  obtain ⟨hmode, henc, hsync, hpipe, hsrc, hqueue, hpool, hout, hstop, hzero⟩ := statusWord_fields s
  exact ⟨hmode, henc.trans (encState_code s.tx), hsync, hpipe, hsrc, hqueue, hpool, hout, hstop, hzero⟩

/-- Settles O20: the build parameters fit their 16 bits in every legal build (R6), and no address listed is writable. -/
theorem identityFaultAndBuildRegisters : Obligations.IdentityFaultAndBuildRegisters := by
  refine ⟨fun s hb => ?_, fun s addr data ha h => ?_, fun _ => ⟨rfl, rfl, rfl⟩, rfl, rfl, rfl, rfl⟩
  · obtain ⟨⟨-, hN⟩, hC, ⟨-, hQ⟩, ⟨-, hA⟩, -⟩ := hb
    obtain ⟨hbits, hzero⟩ := faultWord_fields s.fault
    exact ⟨rfl, hbits, hzero, rfl, toNat_setWidth_ofNat (by decide) (by omega), toNat_setWidth_ofNat (by decide) (by omega),
      toNat_setWidth_ofNat (by decide) (by omega), toNat_setWidth_ofNat (by decide) (by omega)⟩
  · have hro : ∀ a ∈ ([0x00, 0x04, 0x05, 0x0E, 0x0F, 0x10, 0x11] : List Byte), lockedAddress a = false ∧ a ≠ 0x02 := by
      decide
    exact cfgWr_readOnly (hro addr ha).1 (hro addr ha).2 h

/-- Settles O21: the invariant keeps each count below the range of its field (R201, R215 a). -/
theorem occupancyAndCounterRegisters : Obligations.OccupancyAndCounterRegisters := by
  refine ⟨fun s hs => ?_, fun s addr data ha h => ?_, fun s addr => regRead_reserved s, fun b hb => ⟨?_, ?_⟩⟩
  · obtain ⟨⟨-, hN⟩, -, ⟨-, hQ⟩, -, -⟩ := hs.build
    have hfree := hs.pool.free_length_le
    have hroom := hs.queue.room
    exact ⟨BitVec.toNat_setWidth_of_le (by decide), fun hl => toNat_setWidth_ofNat (by decide) hl,
      toNat_setWidth_ofNat (by decide) (by omega), toNat_setWidth_ofNat (by decide) (by omega),
      BitVec.toNat_setWidth_of_le (by decide), rfl, rfl, rfl⟩
  · obtain ⟨hl, hs⟩ := not_writable_of_status ha
    exact cfgWr_readOnly hl hs h
  · obtain ⟨⟨-, hN⟩, -⟩ := hb
    have hlen : (State.resetWith b).pool.free.length = b.poolSize := by
      simp [State.resetWith, Pool.reset]
    refine (toNat_setWidth_ofNat (by decide) ?_).trans hlen
    omega
  · simp only [List.forall_mem_cons, List.not_mem_nil, false_imp_iff, implies_true, and_true]
    exact ⟨rfl, rfl, rfl, rfl, rfl, rfl, rfl⟩

/-- Settles O22: both reads of `AC_LEN` are in range, and no address listed is writable. -/
theorem accessCodeReadback : Obligations.AccessCodeReadback := by
  refine ⟨fun s hm => ?_, fun s hm => ?_, fun s data addr ha h => ?_, fun s addr ha => ?_, fun b => ?_⟩
  · have hlen : s.regRead 0x08 = s.cfg.n.setWidth 32 := if_pos hm
    rw [hlen]
    exact ⟨BitVec.toNat_setWidth_of_le (by decide), if_pos hm, if_pos hm⟩
  · have hlen : s.regRead 0x08 = BitVec.ofNat 32 s.cfg.acChars.length := if_neg hm
    rw [hlen, BitVec.toNat_ofNat]
    exact ⟨fun hl => Nat.mod_eq_of_lt (by omega), if_neg hm, if_neg hm⟩
  · have hro : ∀ a ∈ ([0x08, 0x09, 0x0A] : List Byte), lockedAddress a = false ∧ a ≠ 0x02 := by decide
    exact cfgWr_readOnly (hro addr ha).1 (hro addr ha).2 h
  · revert addr
    simp only [List.forall_mem_cons, List.not_mem_nil, false_imp_iff, implies_true, and_true]
    exact ⟨rfl, rfl, rfl⟩
  · simp only [List.forall_mem_cons, List.not_mem_nil, false_imp_iff, implies_true, and_true]
    exact ⟨rfl, rfl, rfl⟩

/-! ## The state after reset (R56, R321) -/

/-- The Blobs of a reset pool, by index: free, with length 0. -/
theorem Pool.reset_blob (N : Nat) (mem : Memory) (idx : Index) :
    (Pool.reset N mem).inUse idx = false ∧ (Pool.reset N mem).blen idx = 0 := by
  unfold Pool.inUse Pool.blen Pool.reset
  by_cases h : idx.toNat < N
  · simp [h]
  · simp [h]

/-- The reset free list by numbers: 0 to N-1 in order, modulo the index width. -/
theorem Pool.reset_free_toNat (N : Nat) (mem : Memory) :
    (Pool.reset N mem).free.map BitVec.toNat = (List.range N).map (· % 65536) := by
  simp [Pool.reset]

/-- While the indices suffice, the reset free list holds no index twice. -/
theorem Pool.reset_free_nodup {N : Nat} (mem : Memory) (hN : N ≤ 65535) : (Pool.reset N mem).free.Nodup := by
  refine List.Nodup.of_map BitVec.toNat ?_
  rw [Pool.reset_free_toNat]
  refine List.nodup_range.map_on fun k hk l hl h => ?_
  rw [List.mem_range] at hk hl
  omega

/-- While the indices suffice, the reset free list holds every index of a Blob. -/
theorem Pool.mem_reset_free {N : Nat} (mem : Memory) (hN : N ≤ 65535) (idx : Index) :
    idx ∈ (Pool.reset N mem).free ↔ idx.toNat < N := by
  simp only [Pool.reset, List.mem_map, List.mem_range]
  constructor
  · rintro ⟨k, hk, rfl⟩
    rw [BitVec.toNat_ofNat]
    omega
  · intro h
    exact ⟨idx.toNat, h, BitVec.ofNat_toNat 16 idx⟩

/-- A reset pool keeps the pool's invariant in every build whose Blobs the indices can name. -/
theorem PoolInv.reset {b : Build} (hb : b.legal) : PoolInv (State.resetWith b) where
  size := List.length_replicate
  freeDistinct := Pool.reset_free_nodup [] hb.1.2
  freeIff := fun idx => by
    rw [show (State.resetWith b).pool = Pool.reset b.poolSize [] from rfl, Pool.mem_reset_free [] hb.1.2]
    simp only [(Pool.reset_blob b.poolSize [] idx).1, and_true]
    rfl
  waitersDistinct := List.nodup_nil
  waitersIds := fun _ h => nomatch h
  waiting := fun h => absurd rfl h
  lengths := fun idx => by
    rw [show (State.resetWith b).pool = Pool.reset b.poolSize [] from rfl, (Pool.reset_blob b.poolSize [] idx).2]
    exact Nat.zero_le _
  freeLength := fun idx _ => (Pool.reset_blob b.poolSize [] idx).2
  pipeWaits := ⟨(nomatch ·), (nomatch ·)⟩
  idle := fun _ => ⟨rfl, by simp [State.resetWith, Pool.reset]⟩

theorem CfgInv.reset (b : Build) : CfgInv (State.resetWith b) where
  chars := Nat.zero_le _
  threshold := (by decide : Cfg.reset.threshold.toNat ≤ 64)
  sps := (by decide : 1 ≤ Cfg.reset.sps.toNat)
  bps := (by decide : 1 ≤ Cfg.reset.bps.toNat ∧ Cfg.reset.bps.toNat ≤ 8)
  committed := (nomatch ·)
  uncommitted := fun _ => ⟨rfl, rfl, rfl, rfl⟩

theorem FaultInv.reset (b : Build) : FaultInv (State.resetWith b) where
  failed := ⟨(nomatch ·), fun h => absurd h (by simp [State.resetWith])⟩
  info := fun _ => rfl

theorem TxInv.reset (b : Build) : TxInv (State.resetWith b) where
  cursor := ⟨le_rfl, le_rfl⟩
  payloads := fun _ h => nomatch h
  closed := (nomatch ·)
  offset := rfl
  idle := fun _ => ⟨rfl, rfl, rfl, rfl⟩

theorem SyncInv.reset (b : Build) : SyncInv (State.resetWith b) where
  fill := Nat.zero_le _
  header := (nomatch ·)
  need := fun h => by rcases h with h | h <;> exact nomatch h
  payload := (nomatch ·)
  push := (nomatch ·)
  empty := fun _ => rfl
  idle := fun _ => rfl

theorem QueueInv.reset (b : Build) : QueueInv (State.resetWith b) where
  room := Nat.zero_le _
  packets := fun _ h => nomatch h
  idle := fun _ => rfl

theorem MemInv.reset (b : Build) : MemInv (State.resetWith b) where
  canonical := rfl
  written := fun idx k h => by
    rw [show (State.resetWith b).pool = Pool.reset b.poolSize [] from rfl, (Pool.reset_blob b.poolSize [] idx).2] at h
    exact absurd h (Nat.not_lt_zero k)

theorem PipeInv.reset (b : Build) : PipeInv (State.resetWith b) where
  payload := fun p h => by
    obtain rfl : [] = p := DecodeResult.ok.inj h
    exact Nat.zero_le _
  holds := (nomatch ·)
  stop := ⟨(nomatch ·), fun h => absurd rfl h⟩
  idle := fun _ => ⟨rfl, rfl⟩

theorem PendingInv.reset (b : Build) : PendingInv (State.resetWith b) where
  ports := fun _ h => nomatch h
  distinct := List.Pairwise.nil
  issuers := fun _ h => nomatch h

/-- Settles O58, unit by unit. -/
theorem invariantHoldsAfterReset : Obligations.InvariantHoldsAfterReset := fun b hb =>
  { build := hb, cfg := .reset b, fault := .reset b, tx := .reset b, sync := .reset b, queue := .reset b,
    pool := .reset hb, mem := .reset b, pipe := .reset b, pending := .reset b }

/-- Settles O27: the registers' values are those of `State.resetWith`, and the pool's come from the lemmas about a reset pool. -/
theorem resetValues : Obligations.ResetValues := by
  intro b
  have hout : (State.resetWith b).faultO = false := by simp [State.faultO, State.resetWith]
  exact ⟨rfl, rfl, rfl, hout, rfl, rfl, rfl, rfl, rfl, rfl, rfl, rfl, rfl, rfl, rfl, rfl, rfl, rfl, rfl, rfl, rfl, rfl, rfl,
    rfl, rfl, fun _ => Pool.reset_blob b.poolSize [], Pool.reset_free_toNat b.poolSize [], rfl, rfl, rfl, rfl, rfl, rfl, rfl,
    rfl⟩

/-! ## Operations that wait (R45, R267) -/

/-- A presentable operation with good operands that is not enabled blocks. -/
theorem blocks_of_not_enabled {i : Instr} {s : State} (h : Presentable i s) (ho : s.operandRefusal i = none)
    (he : s.enabled i = false) : Blocks i s := by
  rw [Blocks, exec_eq_hold h ho he, hold_eq]

/-- Outside mode RUN no data-plane operation is enabled (R267). -/
theorem enabled_dataPlane {s : State} {i : Instr} (hd : dataPlane i = true) (hm : s.mode ≠ .run) : s.enabled i = false := by
  have hrun : (s.mode == .run) = false := beq_false_of_ne hm
  cases i
  case nop | cfgWr | cfgRd | sysReset | txClose | qClose | poolClose => cases hd
  all_goals simp [State.enabled, State.canFetch, hrun]

/-- An idle encoder with an open source that holds no payload has nothing to give (R163). -/
theorem enabled_txPull {s : State} {cap : BitVec 24} (hc : s.tx.encClosed = false) (hr : s.tx.resid = [])
    (hq : ∀ c ∈ s.tx.srcQ, c = .control) (ho : s.tx.srcClosed = false) : s.enabled (.txPull cap) = false := by
  simp [State.enabled, hc, hr, takePayload_eq_none.2 hq, ho]

/-- While the Sync unit waits for room in the queue it takes no bit (R182). -/
theorem enabled_rxBit {s : State} {b : Bool} (h : s.sync.state = .push) : s.enabled (.rxBit b) = false := by
  simp [State.enabled, h]

/-- The Sync unit pushes only in state Push, and waits on an open queue that is full (R186). -/
theorem enabled_syncPush {s : State}
    (h : s.sync.state ≠ .push ∨ (s.queue.closed = false ∧ s.build.queueCap ≤ s.queue.q.length)) :
    s.enabled .syncPush = false := by
  rcases h with hs | ⟨hc, hfull⟩
  · simp [State.enabled, hs]
  · simp [State.enabled, hc, Nat.not_lt.2 hfull]

/-- An external enqueue waits on an open queue that is full, or that `ext_sink` has been disconnected from (R202, log entry 19). -/
theorem enabled_qEnq {s : State} {length : BitVec 24} {bytes : List Byte} (hc : s.queue.closed = false)
    (h : s.build.queueCap ≤ s.queue.q.length ∨ s.cfg.extSink = false) : s.enabled (.qEnq length bytes) = false := by
  rcases h with hfull | hsink
  · simp [State.enabled, hc, Nat.not_lt.2 hfull]
  · simp [State.enabled, hc, hsink]

/-- The pipeline fetches only in state WaitPacket, and waits on an open queue that is empty (R241, R203). -/
theorem canFetch_eq_false {s : State} (h : s.pipe.state ≠ .waitPacket ∨ (s.queue.closed = false ∧ s.queue.q = [])) :
    s.canFetch = false := by
  rcases h with hs | ⟨hc, hq⟩
  · simp [State.canFetch, hs]
  · simp [State.canFetch, hc, hq]

/-- The pipeline wants a Blob only for a payload it has decoded (R242). -/
theorem wantsBlob_eq_false {p : Pipe} (h : p.state ≠ .decoded ∨ ∃ f, p.res = .fail f) : p.wantsBlob = false := by
  unfold Pipe.wantsBlob
  split
  · rename_i hs hr
    rcases h with h | ⟨f, h⟩
    · exact absurd hs h
    · rw [hr] at h
      cases h
  · rfl

/-- The pipeline has a message only when a Blob is filled or a decoding has failed (R245). -/
theorem hasMessage_eq_false {p : Pipe} (hf : p.state ≠ .filled) (h : p.state ≠ .decoded ∨ ∃ q, p.res = .ok q) :
    p.hasMessage = false := by
  unfold Pipe.hasMessage
  split
  · rename_i hs
    exact absurd hs hf
  · rename_i hs hr
    rcases h with h | ⟨q, h⟩
    · exact absurd hs h
    · rw [hr] at h
      cases h
  · rfl

/-- The pipeline emits only a message it has, into an empty output register (R245). -/
theorem enabled_pipeEmit {s : State}
    (h : s.pipe.outMsg ≠ none ∨ (s.pipe.state ≠ .filled ∧ (s.pipe.state ≠ .decoded ∨ ∃ p, s.pipe.res = .ok p))) :
    s.enabled .pipeEmit = false := by
  rcases h with hout | ⟨hf, hd⟩
  · simp [State.enabled, hout]
  · simp [State.enabled, hasMessage_eq_false hf hd]

/-- The consumer waits for a message while the pipeline has not stopped (R249). -/
theorem enabled_rxTake {s : State} (ho : s.pipe.outMsg = none) (hs : s.pipe.state ≠ .stopped) :
    s.enabled .rxTake = false := by
  simp [State.enabled, ho, hs]

/-- Settles O51: each condition listed is one under which the operation is not enabled. -/
theorem blockedOperationHasNoEffect : Obligations.BlockedOperationHasNoEffect := by
  intro s i hp ho h
  refine blocks_of_not_enabled hp ho ?_
  obtain ⟨hd, hm⟩ | ⟨⟨cap, rfl⟩, hc, hr, hq, hsrc⟩ | ⟨⟨b, rfl⟩, hs⟩ | ⟨rfl, hw⟩ | ⟨⟨length, bytes, rfl⟩, hc, hw⟩ |
    ⟨rfl | rfl, hw⟩ | ⟨rfl | rfl, hw⟩ | ⟨rfl, hw⟩ | ⟨rfl, hout, hs⟩ := h
  · exact enabled_dataPlane hd hm
  · exact enabled_txPull hc hr hq hsrc
  · exact enabled_rxBit hs
  · exact enabled_syncPush hw
  · exact enabled_qEnq hc hw
  · exact canFetch_eq_false hw
  · exact canFetch_eq_false hw
  · simp [State.enabled, wantsBlob_eq_false hw]
  · simp [State.enabled, wantsBlob_eq_false hw]
  · exact enabled_pipeEmit hw
  · exact enabled_rxTake hout hs

/-! ## Fault bits (R21, R22, R290, R315) -/

/-- From `s` to `t` no fault bit is cleared, and a fault once captured stays captured. -/
structure KeepsFaults (s t : State) : Prop where
  bits : s.fault &&& t.fault = s.fault
  info : s.fault ≠ 0 → t.faultInfo = s.faultInfo

theorem KeepsFaults.of_eq {s t : State} (hf : t.fault = s.fault) (hi : t.faultInfo = s.faultInfo) : KeepsFaults s t :=
  ⟨by rw [hf, BitVec.and_self], fun _ => hi⟩

theorem KeepsFaults.trans {s t u : State} (h : KeepsFaults s t) (h' : KeepsFaults t u) : KeepsFaults s u := by
  refine ⟨?_, fun hs => ?_⟩
  · calc s.fault &&& u.fault = s.fault &&& t.fault &&& u.fault := by rw [h.bits]
      _ = s.fault := by rw [BitVec.and_assoc, h'.bits, h.bits]
  · have ht : t.fault ≠ 0 := fun h0 => hs (by rw [← h.bits, h0]; exact BitVec.and_zero)
    rw [h'.info ht, h.info hs]

theorem KeepsFaults.congr_left {s s' t : State} (h : KeepsFaults s' t) (hf : s'.fault = s.fault)
    (hi : s'.faultInfo = s.faultInfo) : KeepsFaults s t :=
  (KeepsFaults.of_eq hf hi).trans h

theorem KeepsFaults.congr_right {s t t' : State} (h : KeepsFaults s t) (hf : t'.fault = t.fault)
    (hi : t'.faultInfo = t.faultInfo) : KeepsFaults s t' :=
  h.trans (.of_eq hf hi)

/-- Raising a fault sets a bit, and captures only the first (R290). -/
theorem KeepsFaults.raiseFault (s : State) (F : FaultNumber) (info : BitVec 24) : KeepsFaults s (s.raiseFault F info) := by
  refine ⟨?_, fun hs => ?_⟩
  · rw [State.raiseFault_fault]
    ext k hk
    rw [BitVec.getElem_and, BitVec.getElem_or]
    cases s.fault[k] <;> rfl
  · rw [State.raiseFault_faultInfo, if_neg hs]

/-- A release raises at most `PAYLOAD_TOO_LARGE`, for the payload of a waiting pipeline (R220, R222). -/
theorem releaseTo_keepsFaults {idx : Index} {ws : List ReqId} {s t : State} (h : State.releaseTo idx ws s = some t) :
    KeepsFaults s t := by
  induction ws generalizing s t with
  | nil =>
    rw [releaseTo_nil] at h
    cases h
    exact .of_eq rfl rfl
  | cons r rs ih =>
    by_cases hr : r = 0
    · subst hr
      cases hres : s.pipe.res with
      | fail f => simp [State.releaseTo, hres] at h
      | ok p =>
        by_cases hl : s.build.blobCap < p.length
        · rw [releaseTo_pipe_tooLarge idx rs s p hres hl, Option.map_eq_some_iff] at h
          obtain ⟨u, hu, rfl⟩ := h
          have hraise : KeepsFaults s u := ((KeepsFaults.raiseFault _ _ _).trans (ih hu)).congr_left rfl rfl
          exact hraise.congr_right rfl rfl
        · rw [releaseTo_pipe_fits idx rs s p hres (Nat.not_lt.1 hl)] at h
          cases h
          exact .of_eq rfl rfl
    · rw [releaseTo_external idx r rs s hr] at h
      cases h
      exact .of_eq rfl rfl

/-- The grant of a Blob to the pipeline raises at most `PAYLOAD_TOO_LARGE` (R220). -/
theorem grantPipe_keepsFaults {idx : Index} {p : List Byte} {s t : State} (h : s.grantPipe idx p = some t) :
    KeepsFaults s t := by
  unfold State.grantPipe at h
  split at h
  · rw [Option.map_eq_some_iff] at h
    obtain ⟨u, hu, rfl⟩ := h
    exact ((KeepsFaults.raiseFault _ _ _).trans (releaseTo_keepsFaults hu)).congr_right rfl rfl
  · cases h
    exact .of_eq rfl rfl

/-- The pipeline's acquire raises at most the fault of its grant (R242). -/
theorem pipeAcquireBlob_keepsFaults {p : List Byte} {s t : State} (h : s.pipeAcquireBlob p = some t) :
    KeepsFaults s t := by
  unfold State.pipeAcquireBlob at h
  split at h
  · cases h
    exact .of_eq rfl rfl
  · split at h
    · exact (grantPipe_keepsFaults h).congr_left rfl rfl
    · cases h
      exact .of_eq rfl rfl

/-- If an operation that needed a grant answers a next state, the grant had a result. -/
theorem granted_next {o : Option State} {f : State → State} {t : State} (h : granted o f = .next t) :
    ∃ u, o = some u ∧ t = f u := by
  cases o with
  | none => cases h
  | some u =>
    cases h
    exact ⟨u, rfl, rfl⟩

/-- A register write raises `CFG_LOCKED` or, by a failing commit, `INVALID_ACCESS_CODE` (R264, R266). -/
theorem writeRegister_keepsFaults (s : State) (addr : Byte) (data : Word) : KeepsFaults s (s.writeRegister addr data) := by
  unfold State.writeRegister
  split
  · split
    · exact .of_eq rfl rfl
    · exact (KeepsFaults.raiseFault s _ _).congr_right rfl rfl
  · split
    · rcases startCommit_cases s with ⟨code, -, hc⟩ | ⟨-, hc⟩
      · rw [hc]
        exact .of_eq rfl rfl
      · rw [hc]
        exact (KeepsFaults.raiseFault s _ _).congr_right rfl rfl
    · exact .of_eq rfl rfl

theorem offer_keepsFaults (s : State) (item : SrcItem) : KeepsFaults s (s.offer item) := by
  unfold State.offer
  split <;> exact .of_eq rfl rfl

theorem pull_keepsFaults (s : State) (cap : BitVec 24) : KeepsFaults s (s.pull cap) := by
  unfold State.pull
  split
  · exact .of_eq rfl rfl
  · split
    · split <;> exact .of_eq rfl rfl
    · exact .of_eq rfl rfl

theorem tryEnqueue_keepsFaults (s : State) : KeepsFaults s s.tryEnqueue := by
  rcases tryEnqueue_cases s with ⟨-, h⟩ | ⟨-, -, h⟩ | ⟨-, -, h⟩
  all_goals
    rw [h]
    exact .of_eq rfl rfl

theorem payloadBit_keepsFaults (s : State) (b : Bool) : KeepsFaults s (s.payloadBit b) := by
  unfold State.payloadBit
  dsimp only
  split
  · split
    · exact (tryEnqueue_keepsFaults _).congr_left rfl rfl
    · exact .of_eq rfl rfl
  · exact .of_eq rfl rfl

theorem receiveBit_keepsFaults (s : State) (b : Bool) : KeepsFaults s (s.receiveBit b) := by
  unfold State.receiveBit
  split
  · exact .of_eq rfl rfl
  · cases s.sync.state
    case payload => exact payloadBit_keepsFaults s b
    all_goals exact .of_eq rfl rfl

theorem fetchPacket_keepsFaults (s : State) : KeepsFaults s s.fetchPacket := by
  rcases fetchPacket_cases s with ⟨rp, rest, -, h⟩ | ⟨-, h⟩
  all_goals
    rw [h]
    exact .of_eq rfl rfl

theorem acquireExternal_keepsFaults (s : State) (r : ReqId) : KeepsFaults s (s.acquireExternal r) := by
  unfold State.acquireExternal
  split
  · exact .of_eq rfl rfl
  · split <;> exact .of_eq rfl rfl

theorem acquireNonBlocking_keepsFaults (s : State) (r : ReqId) : KeepsFaults s (s.acquireNonBlocking r) := by
  unfold State.acquireNonBlocking
  split
  · exact .of_eq rfl rfl
  · split <;> exact .of_eq rfl rfl

/-- A release by an application raises `BAD_BLOB_INDEX`, `DOUBLE_RELEASE` or the fault of the grant it makes (R218). -/
theorem effect_poolRel_keepsFaults {s t : State} {idx : Index} (h : effect (.poolRel idx) s = .next t) : KeepsFaults s t := by
  simp only [effect] at h
  split at h
  · cases h
    exact (KeepsFaults.raiseFault s _ _).congr_right rfl rfl
  · split at h
    · cases h
      exact (KeepsFaults.raiseFault s _ _).congr_right rfl rfl
    · obtain ⟨u, hu, rfl⟩ := granted_next h
      exact (releaseTo_keepsFaults hu).congr_right rfl rfl

theorem effect_pipeAcquire_keepsFaults {s t : State} (h : effect .pipeAcquire s = .next t) : KeepsFaults s t := by
  simp only [effect] at h
  split at h
  · obtain ⟨u, hu, rfl⟩ := granted_next h
    exact (pipeAcquireBlob_keepsFaults hu).congr_right rfl rfl
  · cases h

/-- `POOL.ACQ` is the pipeline's acquire for requester 0 and an external one for any other (R216). -/
theorem effect_poolAcq_keepsFaults {s t : State} {r : ReqId} (h : effect (.poolAcq r) s = .next t) : KeepsFaults s t := by
  by_cases hr : r = 0
  · subst hr
    exact effect_pipeAcquire_keepsFaults h
  · rw [effect, if_neg hr] at h
    cases h
    exact acquireExternal_keepsFaults s r

/-- No effect but that of reset clears a fault bit or the captured fault (R315). -/
theorem effect_keepsFaults {s t : State} {i : Instr} (hi : i ≠ .sysReset) (h : effect i s = .next t) : KeepsFaults s t := by
  cases i
  case sysReset => exact absurd rfl hi
  case poolAcq r => exact effect_poolAcq_keepsFaults h
  case poolRel idx => exact effect_poolRel_keepsFaults h
  case pipeAcquire => exact effect_pipeAcquire_keepsFaults h
  all_goals obtain rfl := Host.Outcome.next.inj h
  case cfgWr addr data => exact writeRegister_keepsFaults s addr data
  case txMsg payload => exact offer_keepsFaults s _
  case txCtrl => exact offer_keepsFaults s _
  case txPull cap => exact pull_keepsFaults s cap
  case rxBit b => exact (receiveBit_keepsFaults s b).congr_right rfl rfl
  case syncPush => exact (tryEnqueue_keepsFaults s).congr_right rfl rfl
  case pipeFetch => exact (fetchPacket_keepsFaults s).congr_right rfl rfl
  case poolAcqnb r => exact acquireNonBlocking_keepsFaults s r
  case qDeq =>
    split
    all_goals exact (fetchPacket_keepsFaults s).congr_right rfl rfl
  case poolClose =>
    obtain ⟨-, -, hf, hinfo, -⟩ := wakeAll_frame s.pool.waiters (s.setPool { s.pool with closed := true, waiters := [] })
    exact .of_eq hf hinfo
  case qEnq | blobRd | blobLen => split <;> exact .of_eq rfl rfl
  case rxTake =>
    split
    · exact .of_eq rfl rfl
    · split <;> exact .of_eq rfl rfl
  case nop | cfgRd | txClose | qClose | pipeEmit => exact .of_eq rfl rfl

/-- Settles O52: an operation that blocks leaves the fault registers alone, and one that is carried out keeps them by its effect. -/
theorem faultsAreSticky : Obligations.FaultsAreSticky := by
  intro s t i hi h
  obtain ⟨-, -, ⟨-, he⟩ | ⟨-, rfl⟩⟩ := exec_next h
  · obtain ⟨hbits, hinfo⟩ := effect_keepsFaults hi he
    exact ⟨hbits, hinfo⟩
  · exact ⟨BitVec.and_self, fun _ => rfl⟩

end Sys2Proof.Machine
end

section
/-!
The memory rules of `20_memory.md`: what each operation leaves of a Blob that is in use, and the choices of the eager schedule.
-/

namespace Sys2Proof.Machine

/-! ## A Blob that an operation leaves alone (R64, R83) -/

/-- From the pool `p` to the pool `q` the Blob `idx` keeps its in-use bit, its length and its bytes. -/
structure Pool.KeepsBlob (idx : Index) (p q : Pool) : Prop where
  inUse : q.inUse idx = p.inUse idx
  blen : q.blen idx = p.blen idx
  bytes : ∀ k < 65536, q.mem.read (blobAddr idx k) = p.mem.read (blobAddr idx k)

namespace Pool.KeepsBlob

variable {idx i : Index} {p q r : Pool}

theorem trans (h : KeepsBlob idx p q) (h' : KeepsBlob idx q r) : KeepsBlob idx p r :=
  ⟨h'.inUse.trans h.inUse, h'.blen.trans h.blen, fun k hk => (h'.bytes k hk).trans (h.bytes k hk)⟩

/-- The free list, the waiters and the closing of the pool are no part of a Blob. -/
theorem of_eq (hb : q.blobs = p.blobs) (hm : q.mem = p.mem) : KeepsBlob idx p q := by
  refine ⟨?_, ?_, fun _ _ => by rw [hm]⟩
  · rw [Pool.inUse, hb, Pool.inUse]
  · rw [Pool.blen, hb, Pool.blen]

theorem refl (p : Pool) : KeepsBlob idx p p := of_eq rfl rfl

theorem congr_left {p' : Pool} (h : KeepsBlob idx p' q) (hb : p'.blobs = p.blobs) (hm : p'.mem = p.mem) : KeepsBlob idx p q :=
  (of_eq hb hm).trans h

theorem congr_right {q' : Pool} (h : KeepsBlob idx p q) (hb : q'.blobs = q.blobs) (hm : q'.mem = q.mem) : KeepsBlob idx p q' :=
  h.trans (of_eq hb hm)

theorem setInUse (h : i ≠ idx) (p : Pool) (v : Bool) : KeepsBlob idx p (p.setInUse i v) where
  inUse := by rw [Pool.inUse_setInUse, if_neg fun hc => h hc.1]
  blen := Pool.blen_setInUse ..
  bytes := fun _ _ => rfl

theorem setLen (h : i ≠ idx) (p : Pool) (v : BitVec 16) : KeepsBlob idx p (p.setLen i v) where
  inUse := Pool.inUse_setLen ..
  blen := by rw [Pool.blen_setLen, if_neg fun hc => h hc.1]
  bytes := fun _ _ => rfl

/-- The first part of a release (R222): the Blob's length is cleared, with any waiters left. -/
theorem clearLen (h : i ≠ idx) (p : Pool) (ws : List ReqId) : KeepsBlob idx p ({ p with waiters := ws }.setLen i 0) :=
  (setLen h _ 0).congr_left rfl rfl

/-- The 65536 addresses of a Blob hold the longest payload, so a copy into one Blob writes no byte of another (R60, R221). -/
theorem blobCopy (h : i ≠ idx) (p : Pool) {bs : List Byte} (hl : bs.length ≤ 65535) :
    KeepsBlob idx p (p.blobCopy i bs) := by
  obtain ⟨-, -, -, -, hin, hlen⟩ := Pool.blobCopy_eq p i bs
  refine ⟨hin idx, by rw [hlen, if_neg fun hc => h hc.1], fun k hk => ?_⟩
  refine Memory.read_writeBytes_other p.mem bs ?_
  have hne : i.toNat ≠ idx.toNat := fun he => h (BitVec.eq_of_toNat_eq he)
  unfold blobAddr
  omega

/-- The Blob taken from the free list is its front: the Blobs in use are not on that list (R215 a). -/
theorem takeFree (hf : idx ∉ p.free) (h : p.takeFree = some (i, q)) : i ≠ idx ∧ KeepsBlob idx p q := by
  obtain ⟨rest, hfree, rfl⟩ := Pool.takeFree_eq_some.1 h
  have hne : i ≠ idx := by
    rintro rfl
    exact hf (by simp [hfree])
  exact ⟨hne, (setInUse hne _ true).congr_left rfl rfl⟩

end Pool.KeepsBlob

/-! ## The grants and releases of other Blobs -/

/-- The release of another Blob, with the grant it makes, leaves a Blob alone, whoever waits (R220, R222). -/
theorem releaseTo_keepsBlob {i idx : Index} {ws : List ReqId} {s t : State} (hne : i ≠ idx)
    (h : State.releaseTo i ws s = some t) (hcap : s.build.blobCap ≤ 65535) : s.pool.KeepsBlob idx t.pool := by
  induction ws generalizing s t with
  | nil =>
    rw [releaseTo_nil] at h
    cases h
    exact ((Pool.KeepsBlob.clearLen hne s.pool []).trans (.setInUse hne _ false)).congr_right rfl rfl
  | cons r rs ih =>
    by_cases hr : r = 0
    · subst hr
      cases hres : s.pipe.res with
      | fail f => simp [State.releaseTo, hres] at h
      | ok p =>
        by_cases hl : s.build.blobCap < p.length
        · rw [releaseTo_pipe_tooLarge i rs s p hres hl, Option.map_eq_some_iff] at h
          obtain ⟨u, hu, rfl⟩ := h
          exact (Pool.KeepsBlob.clearLen hne s.pool rs).trans (ih hu hcap)
        · rw [releaseTo_pipe_fits i rs s p hres (Nat.not_lt.1 hl)] at h
          cases h
          exact (Pool.KeepsBlob.clearLen hne s.pool rs).trans (.blobCopy hne _ (by omega))
    · rw [releaseTo_external i r rs s hr] at h
      cases h
      exact .clearLen hne s.pool rs

theorem releaseBlob_keepsBlob {i idx : Index} {s t : State} (hne : i ≠ idx) (h : s.releaseBlob i = some t)
    (hcap : s.build.blobCap ≤ 65535) : s.pool.KeepsBlob idx t.pool :=
  releaseTo_keepsBlob hne h hcap

/-- The grant of another Blob to the pipeline leaves a Blob alone (R220). -/
theorem grantPipe_keepsBlob {i idx : Index} {p : List Byte} {s t : State} (hne : i ≠ idx) (hcap : s.build.blobCap ≤ 65535)
    (h : s.grantPipe i p = some t) : s.pool.KeepsBlob idx t.pool := by
  unfold State.grantPipe at h
  split at h
  · rw [Option.map_eq_some_iff] at h
    obtain ⟨u, hu, rfl⟩ := h
    exact releaseBlob_keepsBlob (s := s.raiseFault _ _) (t := u) hne hu hcap
  · cases h
    exact .blobCopy hne _ (by omega)

/-- The pipeline's acquire leaves every Blob alone that is not free (R242). -/
theorem pipeAcquireBlob_keepsBlob {idx : Index} {p : List Byte} {s t : State} (hf : idx ∉ s.pool.free)
    (hcap : s.build.blobCap ≤ 65535) (h : s.pipeAcquireBlob p = some t) : s.pool.KeepsBlob idx t.pool := by
  unfold State.pipeAcquireBlob at h
  split at h
  · cases h
    exact .refl _
  · split at h
    · rename_i i pool htake
      obtain ⟨hne, hkeep⟩ := Pool.KeepsBlob.takeFree hf htake
      exact hkeep.trans (grantPipe_keepsBlob (s := s.setPool pool) hne hcap h)
    · cases h
      exact .of_eq rfl rfl

/-- An external acquire leaves every Blob alone that is not free (R216). -/
theorem acquireExternal_keepsBlob {idx : Index} {s : State} (hf : idx ∉ s.pool.free) (r : ReqId) :
    s.pool.KeepsBlob idx (s.acquireExternal r).pool := by
  unfold State.acquireExternal
  split
  · exact .refl _
  · split
    · rename_i htake
      exact (Pool.KeepsBlob.takeFree hf htake).2
    · exact .of_eq rfl rfl

/-- A non-blocking acquire leaves every Blob alone that is not free (R217). -/
theorem acquireNonBlocking_keepsBlob {idx : Index} {s : State} (hf : idx ∉ s.pool.free) (r : ReqId) :
    s.pool.KeepsBlob idx (s.acquireNonBlocking r).pool := by
  unfold State.acquireNonBlocking
  split
  · exact .refl _
  · split
    · rename_i htake
      exact (Pool.KeepsBlob.takeFree hf htake).2
    · exact .refl _

/-- `POOL.REL` of another index is a fault or the release of another Blob (R218). -/
theorem effect_poolRel_keepsBlob {i idx : Index} {s t : State} (hne : i ≠ idx) (hcap : s.build.blobCap ≤ 65535)
    (h : effect (.poolRel i) s = .next t) : s.pool.KeepsBlob idx t.pool := by
  simp only [effect] at h
  split at h
  · cases h
    exact .refl _
  · split at h
    · cases h
      exact .refl _
    · obtain ⟨u, hu, rfl⟩ := granted_next h
      exact releaseBlob_keepsBlob (t := u) hne hu hcap

theorem effect_pipeAcquire_keepsBlob {idx : Index} {s t : State} (hf : idx ∉ s.pool.free) (hcap : s.build.blobCap ≤ 65535)
    (h : effect .pipeAcquire s = .next t) : s.pool.KeepsBlob idx t.pool := by
  simp only [effect] at h
  split at h
  · obtain ⟨u, hu, rfl⟩ := granted_next h
    exact pipeAcquireBlob_keepsBlob (t := u) hf hcap hu
  · cases h

/-- `POOL.ACQ` is the pipeline's acquire for requester 0 and an external one for any other (R216). -/
theorem effect_poolAcq_keepsBlob {idx : Index} {r : ReqId} {s t : State} (hf : idx ∉ s.pool.free)
    (hcap : s.build.blobCap ≤ 65535) (h : effect (.poolAcq r) s = .next t) : s.pool.KeepsBlob idx t.pool := by
  by_cases hr : r = 0
  · subst hr
    exact effect_pipeAcquire_keepsBlob hf hcap h
  · rw [effect, if_neg hr] at h
    cases h
    exact acquireExternal_keepsBlob hf r

/-! ## The operations of the other units leave the pool alone -/

theorem writeRegister_pool (s : State) (addr : Byte) (data : Word) : (s.writeRegister addr data).pool = s.pool := by
  unfold State.writeRegister
  split
  · split <;> rfl
  · split
    · rcases startCommit_cases s with ⟨code, -, hc⟩ | ⟨-, hc⟩
      all_goals
        rw [hc]
        rfl
    · rfl

theorem offer_pool (s : State) (item : SrcItem) : (s.offer item).pool = s.pool := by
  unfold State.offer
  split <;> rfl

theorem pull_pool (s : State) (cap : BitVec 24) : (s.pull cap).pool = s.pool := by
  unfold State.pull
  split
  · rfl
  · split
    · split <;> rfl
    · rfl

theorem tryEnqueue_pool (s : State) : s.tryEnqueue.pool = s.pool := by
  rcases tryEnqueue_cases s with ⟨-, h⟩ | ⟨-, -, h⟩ | ⟨-, -, h⟩
  all_goals
    rw [h]
    rfl

theorem payloadBit_pool (s : State) (b : Bool) : (s.payloadBit b).pool = s.pool := by
  unfold State.payloadBit
  dsimp only
  split
  · split
    · exact tryEnqueue_pool _
    · rfl
  · rfl

theorem receiveBit_pool (s : State) (b : Bool) : (s.receiveBit b).pool = s.pool := by
  unfold State.receiveBit
  split
  · rfl
  · cases s.sync.state
    case payload => exact payloadBit_pool s b
    all_goals rfl

theorem fetchPacket_pool (s : State) : s.fetchPacket.pool = s.pool := by
  rcases fetchPacket_cases s with ⟨rp, rest, -, h⟩ | ⟨-, h⟩
  all_goals
    rw [h]
    rfl

theorem wakeAll_pool (ws : List ReqId) (s : State) : (State.wakeAll ws s).pool = s.pool := by
  obtain ⟨-, -, -, -, -, -, -, -, hpool, -⟩ := wakeAll_frame ws s
  exact hpool

/-- The operations that hand out a Blob or take one back, the closing of the pool, and reset. -/
def changesPool : Instr → Bool
  | .sysReset | .poolAcq _ | .poolAcqnb _ | .poolRel _ | .poolClose | .pipeAcquire => true
  | _ => false

/-- Every other operation leaves the whole pool as it was. -/
theorem effect_pool_eq {i : Instr} {s t : State} (hi : changesPool i = false) (h : effect i s = .next t) :
    t.pool = s.pool := by
  cases i
  case sysReset | poolAcq | poolAcqnb | poolRel | poolClose | pipeAcquire => cases hi
  all_goals obtain rfl := Host.Outcome.next.inj h
  case cfgWr addr data => exact writeRegister_pool s addr data
  case txMsg payload => exact offer_pool s _
  case txCtrl => exact offer_pool s _
  case txPull cap => exact pull_pool s cap
  case rxBit b => exact receiveBit_pool s b
  case syncPush => exact tryEnqueue_pool s
  case pipeFetch => exact fetchPacket_pool s
  case qDeq => split <;> exact fetchPacket_pool s
  case qEnq | blobRd | blobLen => split <;> rfl
  case rxTake =>
    split
    · rfl
    · split <;> rfl
  case nop | cfgRd | txClose | qClose | pipeEmit => rfl

/-- No effect but the release of a Blob and reset changes that Blob while it is not free (R83). -/
theorem effect_keepsBlob {i : Instr} {idx : Index} {s t : State} (hf : idx ∉ s.pool.free) (hcap : s.build.blobCap ≤ 65535)
    (hrel : i ≠ .poolRel idx) (hreset : i ≠ .sysReset) (h : effect i s = .next t) : s.pool.KeepsBlob idx t.pool := by
  cases i
  case sysReset => exact absurd rfl hreset
  case poolAcq r => exact effect_poolAcq_keepsBlob hf hcap h
  case poolRel j => exact effect_poolRel_keepsBlob (fun hj => hrel (by rw [hj])) hcap h
  case pipeAcquire => exact effect_pipeAcquire_keepsBlob hf hcap h
  case poolAcqnb r =>
    cases h
    exact acquireNonBlocking_keepsBlob hf r
  case poolClose =>
    cases h
    rw [State.complete_pool, wakeAll_pool]
    exact .of_eq rfl rfl
  all_goals
    rw [effect_pool_eq rfl h]
    exact .refl _

/-- Settles O56: a Blob in use is not free, and an operation that blocks leaves the pool as it was. -/
theorem blobInUseIsStable : Obligations.BlobInUseIsStable := by
  intro s t i idx hs huse hrel hreset h
  have hf : idx ∉ s.pool.free := by
    intro hmem
    obtain ⟨-, hfree⟩ := (hs.pool.freeIff idx).1 hmem
    rw [huse] at hfree
    cases hfree
  obtain ⟨-, hcap, -⟩ := hs.build
  obtain ⟨-, -, ⟨-, he⟩ | ⟨-, rfl⟩⟩ := exec_next h
  · obtain ⟨hin, hlen, hbytes⟩ := effect_keepsBlob (s := s.accept) hf hcap hrel hreset he
    exact ⟨hin.trans huse, hlen, hbytes⟩
  · exact ⟨huse, rfl, fun _ _ => rfl⟩

/-! ## The eager schedule (R84) -/

/-- The pass over the internal steps takes the first enabled one. -/
theorem findInternal_eq_some {s : State} {n k : Nat} {t : Internal} (hk : k < n)
    (hbefore : ∀ j < k, s.enabled (Internal.succ^[j] t).instr = false)
    (he : s.enabled (Internal.succ^[k] t).instr = true) : s.findInternal n t = some (Internal.succ^[k] t) := by
  induction n generalizing k t with
  | zero => omega
  | succ n ih =>
    cases k with
    | zero => exact if_pos he
    | succ k =>
      have hfirst : s.enabled t.instr = false := hbefore 0 (by omega)
      rw [State.findInternal, hfirst, if_neg Bool.false_ne_true]
      exact ih (by omega) (fun j hj => hbefore (j + 1) (by omega)) he

/-- The pass over the internal steps finds none when none is enabled. -/
theorem findInternal_eq_none {s : State} (h : ∀ t : Internal, s.enabled t.instr = false) (n : Nat) (t : Internal) :
    s.findInternal n t = none := by
  induction n generalizing t with
  | zero => rfl
  | succ n ih => rw [State.findInternal, h t, if_neg Bool.false_ne_true, ih]

/-- The first enabled outstanding operation is the next one of them. -/
theorem nextPending_eq_some {s : State} {before after : List Request} {rq : Request}
    (hp : s.env.pending = before ++ rq :: after) (hbefore : ∀ r ∈ before, s.enabled r.instr = false)
    (he : s.enabled rq.instr = true) : s.nextPending = some before.length := by
  have hnone : before.findIdx? (fun r => s.enabled r.instr) = none := List.findIdx?_eq_none_iff.2 hbefore
  rw [State.nextPending, hp, List.findIdx?_append, hnone]
  simp [List.findIdx?_cons, he]

/-- While no outstanding operation is enabled there is no next one of them. -/
theorem nextPending_eq_none {s : State} (h : ∀ r ∈ s.env.pending, s.enabled r.instr = false) : s.nextPending = none :=
  List.findIdx?_eq_none_iff.2 h

/-- A step under the eager schedule while an internal step is enabled. -/
theorem step_eager_internal {s : State} {t : Internal} (hs : s.env.schedule = .eager) (h : s.nextInternal = some t) :
    step s = exec t.instr ((s.issuedBy (issuerOf t.instr)).turnTo t.succ) := by
  simp only [step, hs, stepEager, h]

/-- A step under the eager schedule while no internal step but an outstanding operation is enabled. -/
theorem step_eager_pending {s : State} {k : Nat} (hs : s.env.schedule = .eager) (hi : s.nextInternal = none)
    (h : s.nextPending = some k) : step s = (s.turnTo .syncPush).resume k := by
  simp only [step, hs, stepEager, hi, h]

/-- A step under the eager schedule while neither an internal step nor an outstanding operation is enabled. -/
theorem step_eager_script {s : State} (hs : s.env.schedule = .eager) (hi : s.nextInternal = none)
    (h : s.nextPending = none) : step s = stepScript (s.turnTo .syncPush) := by
  simp only [step, hs, stepEager, hi, h]

/-- Settles O6: the first enabled internal step, else the oldest enabled outstanding operation, else the script. -/
theorem eagerScheduleOrder : Obligations.EagerScheduleOrder := by
  refine ⟨fun s k hs hk hbefore he => ?_, fun s before after rq hs hnone hp hbefore he => ?_, fun s hs hnone hblocked => ?_⟩
  · rw [step_eager_internal hs (findInternal_eq_some hk hbefore he), Function.iterate_succ_apply']
    rfl
  · have hk : (s.turnTo .syncPush).env.pending[before.length]? = some rq := by simp [hp]
    have herase : s.env.pending.eraseIdx before.length = before ++ after := by
      rw [hp, List.eraseIdx_append_of_length_le le_rfl, Nat.sub_self, List.eraseIdx_cons_zero]
    rw [step_eager_pending hs (findInternal_eq_none hnone 4 _) (nextPending_eq_some hp hbefore he),
      resume_enabled hk (by simpa using he), ← herase]
    rfl
  · exact step_eager_script hs (findInternal_eq_none hnone 4 _) (nextPending_eq_none hblocked)

end Sys2Proof.Machine
end

section
/-!
The transaction records of `30_encoding.md`: what each field reader and each format accepts, the decoder as the inverse of the encoder,
the records and presentations that are refused, and the step that runs a record or an outstanding operation.
-/

namespace Sys2Proof.Machine

/-! ## The fields of a record (R67, R111) -/

/-- A run of eight bits as a number. -/
theorem toNat_extractLsb'_byte {w : Nat} (v : BitVec w) (k : Nat) : (v.extractLsb' k 8).toNat = v.toNat / 2 ^ k % 256 := by
  rw [BitVec.extractLsb'_toNat, Nat.shiftRight_eq_div_pow]

/-- The byte at bit `k` of a value, by its number. -/
theorem extractLsb'_eq_byte {w k : Nat} {v : BitVec w} {b : Byte} (h : v.toNat / 2 ^ k % 256 = b.toNat) : v.extractLsb' k 8 = b :=
  BitVec.eq_of_toNat_eq ((toNat_extractLsb'_byte v k).trans h)

theorem be16_append (a b : Byte) : be16 (a ++ b) = [a, b] := by
  have h := toNat_append_two a b
  have ha := a.isLt
  have hb := b.isLt
  rw [be16, extractLsb'_eq_byte (b := a) (by omega), extractLsb'_eq_byte (b := b) (by omega)]

theorem be24_append (a b c : Byte) : be24 (a ++ b ++ c) = [a, b, c] := by
  have h := toNat_append_three a b c
  have ha := a.isLt
  have hb := b.isLt
  have hc := c.isLt
  rw [be24, extractLsb'_eq_byte (b := a) (by omega), extractLsb'_eq_byte (b := b) (by omega),
    extractLsb'_eq_byte (b := c) (by omega)]

theorem be32_append (a b c d : Byte) : be32 (a ++ b ++ c ++ d) = [a, b, c, d] := by
  have h := toNat_append_four a b c d
  have ha := a.isLt
  have hb := b.isLt
  have hc := c.isLt
  have hd := d.isLt
  rw [be32, extractLsb'_eq_byte (b := a) (by omega), extractLsb'_eq_byte (b := b) (by omega),
    extractLsb'_eq_byte (b := c) (by omega), extractLsb'_eq_byte (b := d) (by omega)]

theorem read16_be16 (v : BitVec 16) (rest : List Byte) : read16 (be16 v ++ rest) = .ok (v, rest) := by
  have hv : v.extractLsb' 8 8 ++ v.extractLsb' 0 8 = v := by
    refine BitVec.eq_of_toNat_eq ((toNat_append_two _ _).trans ?_)
    have h := v.isLt
    simp only [toNat_extractLsb'_byte]
    omega
  exact congrArg (fun w => Except.ok (w, rest)) hv

theorem read24_be24 (v : BitVec 24) (rest : List Byte) : read24 (be24 v ++ rest) = .ok (v, rest) := by
  have hv : v.extractLsb' 16 8 ++ v.extractLsb' 8 8 ++ v.extractLsb' 0 8 = v := by
    refine BitVec.eq_of_toNat_eq ((toNat_append_three _ _ _).trans ?_)
    have h := v.isLt
    simp only [toNat_extractLsb'_byte]
    omega
  exact congrArg (fun w => Except.ok (w, rest)) hv

theorem read32_be32 (v : Word) (rest : List Byte) : read32 (be32 v ++ rest) = .ok (v, rest) := by
  have hv : v.extractLsb' 24 8 ++ v.extractLsb' 16 8 ++ v.extractLsb' 8 8 ++ v.extractLsb' 0 8 = v := by
    refine BitVec.eq_of_toNat_eq ((toNat_append_four _ _ _ _).trans ?_)
    have h := v.isLt
    simp only [toNat_extractLsb'_byte]
    omega
  exact congrArg (fun w => Except.ok (w, rest)) hv

theorem read8_eq_ok {bs rest : List Byte} {a : Byte} : read8 bs = .ok (a, rest) ↔ bs = a :: rest := by
  cases bs <;> simp [read8]

/-- A 16-bit field reads as a value exactly from the value's two bytes. -/
theorem read16_eq_ok {bs rest : List Byte} {v : BitVec 16} : read16 bs = .ok (v, rest) ↔ bs = be16 v ++ rest := by
  constructor
  · intro h
    match bs, h with
    | a :: b :: _, h =>
      cases h
      rw [be16_append]
      rfl
  · rintro rfl
    exact read16_be16 v rest

/-- A 24-bit field reads as a value exactly from the value's three bytes. -/
theorem read24_eq_ok {bs rest : List Byte} {v : BitVec 24} : read24 bs = .ok (v, rest) ↔ bs = be24 v ++ rest := by
  constructor
  · intro h
    match bs, h with
    | a :: b :: c :: _, h =>
      cases h
      rw [be24_append]
      rfl
  · rintro rfl
    exact read24_be24 v rest

/-- A 32-bit field reads as a value exactly from the value's four bytes. -/
theorem read32_eq_ok {bs rest : List Byte} {v : Word} : read32 bs = .ok (v, rest) ↔ bs = be32 v ++ rest := by
  constructor
  · intro h
    match bs, h with
    | a :: b :: c :: d :: _, h =>
      cases h
      rw [be32_append]
      rfl
  · rintro rfl
    exact read32_be32 v rest

/-- The data of a record are exactly as many bytes as its length field says. -/
theorem readData_eq_ok {k : Nat} {bs data rest : List Byte} :
    readData k bs = .ok (data, rest) ↔ data.length = k ∧ bs = data ++ rest := by
  unfold readData
  constructor
  · intro h
    split at h
    · rename_i hk
      cases h
      exact ⟨List.length_take_of_le hk, (List.take_append_drop k bs).symm⟩
    · cases h
  · rintro ⟨rfl, rfl⟩
    simp

/-! ## The formats (R111): which bytes each of them reads, and as what -/

/-- A two-step decoding succeeds exactly when both of its steps do. -/
theorem except_bind_eq_ok {ε α β : Type} {x : Except ε α} {f : α → Except ε β} {r : β} :
    (x >>= f) = .ok r ↔ ∃ a, x = .ok a ∧ f a = .ok r := by
  cases x with
  | error e => exact ⟨(nomatch ·), fun ⟨_, h, _⟩ => nomatch h⟩
  | ok a => exact ⟨fun h => ⟨a, rfl, h⟩, fun ⟨_, rfl, h⟩ => h⟩

theorem readTA_eq_ok {f : Byte → Instr} {bs rest : List Byte} {i : Instr} :
    readTA f bs = .ok (i, rest) ↔ ∃ a, i = f a ∧ bs = a :: rest := by
  simp only [readTA, except_bind_eq_ok, Prod.exists, read8_eq_ok, Except.ok.injEq, Prod.mk.injEq]
  constructor
  · rintro ⟨a, _, rfl, rfl, rfl⟩
    exact ⟨a, rfl, rfl⟩
  · rintro ⟨a, rfl, rfl⟩
    exact ⟨a, _, rfl, rfl, rfl⟩

/-- The operand byte of `RX.BIT` is the bit, 0 or 1. -/
theorem readBitRecord_eq_ok {bs rest : List Byte} {i : Instr} :
    readBitRecord bs = .ok (i, rest) ↔ ∃ b, i = .rxBit b ∧ bs = (if b then 1 else 0) :: rest := by
  simp only [readBitRecord, except_bind_eq_ok, Prod.exists, read8_eq_ok]
  constructor
  · rintro ⟨a, _, rfl, h⟩
    split at h
    · rename_i ha
      cases h
      exact ⟨false, rfl, by rw [ha]; rfl⟩
    · split at h
      · rename_i ha
        cases h
        exact ⟨true, rfl, by rw [ha]; rfl⟩
      · cases h
  · rintro ⟨b, rfl, rfl⟩
    refine ⟨_, _, rfl, ?_⟩
    cases b <;> rfl

theorem readTI_eq_ok {f : BitVec 16 → Instr} {bs rest : List Byte} {i : Instr} :
    readTI f bs = .ok (i, rest) ↔ ∃ idx, i = f idx ∧ bs = be16 idx ++ rest := by
  simp only [readTI, except_bind_eq_ok, Prod.exists, read16_eq_ok, Except.ok.injEq, Prod.mk.injEq]
  constructor
  · rintro ⟨idx, _, rfl, rfl, rfl⟩
    exact ⟨idx, rfl, rfl⟩
  · rintro ⟨idx, rfl, rfl⟩
    exact ⟨idx, _, rfl, rfl, rfl⟩

theorem readTC_eq_ok {f : BitVec 24 → Instr} {bs rest : List Byte} {i : Instr} :
    readTC f bs = .ok (i, rest) ↔ ∃ cap, i = f cap ∧ bs = be24 cap ++ rest := by
  simp only [readTC, except_bind_eq_ok, Prod.exists, read24_eq_ok, Except.ok.injEq, Prod.mk.injEq]
  constructor
  · rintro ⟨cap, _, rfl, rfl, rfl⟩
    exact ⟨cap, rfl, rfl⟩
  · rintro ⟨cap, rfl, rfl⟩
    exact ⟨cap, _, rfl, rfl, rfl⟩

theorem readTB_eq_ok {f : BitVec 16 → BitVec 16 → Instr} {bs rest : List Byte} {i : Instr} :
    readTB f bs = .ok (i, rest) ↔ ∃ idx off, i = f idx off ∧ bs = be16 idx ++ be16 off ++ rest := by
  simp only [readTB, except_bind_eq_ok, Prod.exists, read16_eq_ok, Except.ok.injEq, Prod.mk.injEq]
  constructor
  · rintro ⟨idx, _, rfl, off, _, rfl, rfl, rfl⟩
    exact ⟨idx, off, rfl, rfl⟩
  · rintro ⟨idx, off, rfl, rfl⟩
    exact ⟨idx, _, rfl, off, _, rfl, rfl, rfl⟩

theorem readTR_eq_ok {f : Byte → Word → Instr} {bs rest : List Byte} {i : Instr} :
    readTR f bs = .ok (i, rest) ↔ ∃ addr data, i = f addr data ∧ bs = addr :: be32 data ++ rest := by
  simp only [readTR, except_bind_eq_ok, Prod.exists, read8_eq_ok, read32_eq_ok, Except.ok.injEq, Prod.mk.injEq]
  constructor
  · rintro ⟨addr, _, rfl, data, _, rfl, rfl, rfl⟩
    exact ⟨addr, data, rfl, rfl⟩
  · rintro ⟨addr, data, rfl, rfl⟩
    exact ⟨addr, _, rfl, data, _, rfl, rfl, rfl⟩

/-- A TM record holds a payload that its length field can state (R101). -/
theorem readTM_eq_ok {f : List Byte → Instr} {bs rest : List Byte} {i : Instr} :
    readTM f bs = .ok (i, rest) ↔
      ∃ p, p.length ≤ Config.maxPayload ∧ i = f p ∧ bs = be16 (BitVec.ofNat 16 p.length) ++ p ++ rest := by
  simp only [readTM, except_bind_eq_ok, Prod.exists, read16_eq_ok, readData_eq_ok, Except.ok.injEq, Prod.mk.injEq,
    List.append_assoc]
  constructor
  · rintro ⟨len, _, rfl, p, _, ⟨hlen, rfl⟩, rfl, rfl⟩
    refine ⟨p, ?_, rfl, by rw [hlen, BitVec.ofNat_toNat, BitVec.setWidth_eq]⟩
    rw [hlen]
    exact Nat.le_of_lt_succ len.isLt
  · rintro ⟨p, hp, rfl, rfl⟩
    exact ⟨_, _, rfl, p, _, ⟨((BitVec.toNat_ofNat _ _).trans (Nat.mod_eq_of_lt (Nat.lt_succ_of_le hp))).symm, rfl⟩, rfl, rfl⟩

/-- A TQ record holds a packet of at most `RAW_MAX` bytes (R127). -/
theorem readTQ_eq_ok {f : BitVec 24 → List Byte → Instr} {bs rest : List Byte} {i : Instr} :
    readTQ f bs = .ok (i, rest) ↔
      ∃ length p, p.length ≤ Config.rawMax ∧ i = f length p ∧
        bs = be24 length ++ be24 (BitVec.ofNat 24 p.length) ++ p ++ rest := by
  simp only [readTQ, except_bind_eq_ok, Prod.exists, read24_eq_ok, List.append_assoc]
  constructor
  · rintro ⟨length, _, rfl, cnt, _, rfl, h⟩
    split at h
    · cases h
    · rename_i hcnt
      simp only [except_bind_eq_ok, Prod.exists, readData_eq_ok, Except.ok.injEq, Prod.mk.injEq] at h
      obtain ⟨p, _, ⟨hlen, rfl⟩, rfl, rfl⟩ := h
      exact ⟨length, p, hlen ▸ Nat.le_of_not_lt hcnt, rfl, by rw [hlen, BitVec.ofNat_toNat, BitVec.setWidth_eq]⟩
  · rintro ⟨length, p, hp, rfl, rfl⟩
    have hcnt : (BitVec.ofNat 24 p.length).toNat = p.length :=
      (BitVec.toNat_ofNat _ _).trans (Nat.mod_eq_of_lt (hp.trans_lt (by decide)))
    refine ⟨length, _, rfl, _, _, rfl, ?_⟩
    rw [hcnt, if_neg (Nat.not_lt.2 hp), readData_eq_ok.2 ⟨rfl, rfl⟩]
    rfl

/-- A TQ record whose `cnt` is larger than `RAW_MAX` is rejected (R127). -/
theorem readTQ_packetTooLong (f : BitVec 24 → List Byte → Instr) (length : BitVec 24) {cnt : BitVec 24} (rest : List Byte)
    (h : Config.rawMax < cnt.toNat) : readTQ f (be24 length ++ (be24 cnt ++ rest)) = .error (.packetTooLong cnt) := by
  simp only [readTQ, read24_be24, bind, Except.bind]
  rw [if_pos h]

/-- An operand byte of `RX.BIT` other than 0 and 1 is rejected (R112, R127). -/
theorem readBitRecord_reserved {a : Byte} (rest : List Byte) (h0 : a ≠ 0) (h1 : a ≠ 1) :
    readBitRecord (a :: rest) = .error (.bitOperandReserved a) := by
  simp only [readBitRecord, read8, bind, Except.bind]
  rw [if_neg h0, if_neg h1]

/-! ## The decoder and the encoder (R110 to R112) -/

/-- What the opcode map reads is a well-formed operation from its own record: the formats say so of their operands, arm by arm of the
map, and the operations without operands are their opcode byte. -/
theorem record_of_decodeBody {op : Byte} {bs rest : List Byte} {i : Instr} (h : decodeBody op bs = .ok (i, rest)) :
    i.wellFormed = true ∧ op :: bs = encode i ++ rest := by
  unfold decodeBody at h
  split at h
  case h_24 => cases h
  all_goals
    rename_i hop
    obtain ⟨-, rfl⟩ := BitVec.toNat_eq_nat.1 hop
  case h_2 => -- `CFG.WR`
    obtain ⟨addr, data, rfl, rfl⟩ := readTR_eq_ok.1 h
    exact ⟨rfl, rfl⟩
  case h_5 => -- `TX.MSG`
    obtain ⟨p, hp, rfl, rfl⟩ := readTM_eq_ok.1 h
    exact ⟨decide_eq_true hp, rfl⟩
  case h_8 => -- `TX.PULL`
    obtain ⟨cap, rfl, rfl⟩ := readTC_eq_ok.1 h
    exact ⟨rfl, rfl⟩
  case h_9 => -- `RX.BIT`
    obtain ⟨b, rfl, rfl⟩ := readBitRecord_eq_ok.1 h
    exact ⟨rfl, rfl⟩
  case h_11 => -- `Q.ENQ`
    obtain ⟨length, p, hp, rfl, rfl⟩ := readTQ_eq_ok.1 h
    exact ⟨decide_eq_true hp, rfl⟩
  case h_3 | h_14 | h_15 => -- `CFG.RD`, `POOL.ACQ`, `POOL.ACQNB`
    obtain ⟨a, rfl, rfl⟩ := readTA_eq_ok.1 h
    exact ⟨rfl, rfl⟩
  case h_18 => -- `BLOB.RD`
    obtain ⟨idx, off, rfl, rfl⟩ := readTB_eq_ok.1 h
    exact ⟨rfl, rfl⟩
  case h_16 | h_19 => -- `POOL.REL`, `BLOB.LEN`
    obtain ⟨idx, rfl, rfl⟩ := readTI_eq_ok.1 h
    exact ⟨rfl, rfl⟩
  all_goals
    cases h
    exact ⟨rfl, rfl⟩

/-- Settles O1: each format reads back what `encode` writes for its operations. -/
theorem decodeInvertsEncode : Obligations.DecodeInvertsEncode := by
  intro i rest h
  cases i
  case cfgWr addr data => exact readTR_eq_ok.2 ⟨addr, data, rfl, rfl⟩
  case cfgRd a | poolAcq a | poolAcqnb a => exact readTA_eq_ok.2 ⟨a, rfl, rfl⟩
  case txMsg p => exact readTM_eq_ok.2 ⟨p, of_decide_eq_true h, rfl, rfl⟩
  case txPull cap => exact readTC_eq_ok.2 ⟨cap, rfl, rfl⟩
  case rxBit b => exact readBitRecord_eq_ok.2 ⟨b, rfl, rfl⟩
  case qEnq length p => exact readTQ_eq_ok.2 ⟨length, p, of_decide_eq_true h, rfl, rfl⟩
  case poolRel idx | blobLen idx => exact readTI_eq_ok.2 ⟨idx, rfl, rfl⟩
  case blobRd idx off => exact readTB_eq_ok.2 ⟨idx, off, rfl, rfl⟩
  all_goals rfl

/-- Settles O2: no bytes are no record, and an opcode byte is read by the opcode map. -/
theorem decodedBytesAreTheRecord : Obligations.DecodedBytesAreTheRecord := by
  intro bs rest i h
  cases bs with
  | nil => cases h
  | cons op bs => exact record_of_decodeBody h

/-- Settles O3: each record is what `encode` writes for its operation. -/
theorem sampleRecordsDecode : Obligations.SampleRecordsDecode :=
  ⟨decodeInvertsEncode (.poolAcq 1) [] rfl, decodeInvertsEncode (.poolRel 0) [] rfl,
    decodeInvertsEncode (.cfgWr 0x0B 0) [] rfl, decodeInvertsEncode (.txMsg [0x48, 0x45, 0x4C, 0x4C, 0x4F]) [] rfl,
    decodeInvertsEncode (.txPull 16777215) [] rfl, decodeInvertsEncode (.rxBit true) [] rfl,
    decodeInvertsEncode (.blobRd 0 1) [] rfl, decodeInvertsEncode (.qEnq 2 [0xAA]) [] rfl⟩

/-- An opcode byte that is not in the table of R112 is rejected. -/
theorem decode_noSuchOpcode {op : Byte} (rest : List Byte)
    (h : op ∉ ([0x00, 0x01, 0x02, 0x0F, 0x10, 0x11, 0x12, 0x13, 0x20, 0x22, 0x30, 0x31, 0x32, 0x40, 0x41, 0x42, 0x43, 0x44, 0x45,
      0x50, 0x51, 0x52, 0x60] : List Byte)) : decode (op :: rest) = .error (.noSuchOpcode op) := by
  change decodeBody op rest = _
  unfold decodeBody
  split
  case h_24 => rfl
  all_goals
    rename_i hop
    obtain ⟨-, rfl⟩ := BitVec.toNat_eq_nat.1 hop
    exact absurd (by decide) h

/-- A bit operand with a bit set above bit 0 is rejected (R112, R127). -/
theorem decode_bitOperandReserved {a : Byte} (rest : List Byte) (h : a.extractLsb' 1 7 ≠ 0) :
    decode (0x20 :: a :: rest) = .error (.bitOperandReserved a) := by
  refine readBitRecord_reserved rest ?_ ?_
  all_goals
    rintro rfl
    exact h (by decide)

/-! ## The script's steps (R75, R110, R120) -/

theorem step_oracle {s : State} (h : s.env.schedule = .oracle) : step s = stepScript s := by
  simp only [step, h]

/-- Bytes that decode to an operation run it, as their agent's. -/
theorem stepScript_record {s : State} {a : Agent} {bs more : List Byte} {rest : List Choice} {i : Instr}
    (hs : s.env.script = .present a bs :: rest) (hd : decode bs = .ok (i, more)) :
    stepScript s = exec i (s.fetched a more rest) := by
  cases bs with
  | nil => cases hd
  | cons b bs => simp only [stepScript, hs, hd]

/-- Bytes that encode no operation are refused (R127). -/
theorem stepScript_badRecord {s : State} {a : Agent} {b : Byte} {bs : List Byte} {rest : List Choice} {e : DecodeError}
    (hs : s.env.script = .present a (b :: bs) :: rest) (hd : decode (b :: bs) = .error e) :
    stepScript s = .refused (.badRecord e) := by
  simp only [stepScript, hs, hd]

theorem stepScript_resume {s : State} {k : Nat} {rest : List Choice} (hs : s.env.script = .resume k :: rest) :
    stepScript s = (s.scriptTo rest).resume k := by
  simp only [stepScript, hs]

/-- Settles O5: the script's next choice is a record or an outstanding operation. -/
theorem stepRunsDecodedRecord : Obligations.StepRunsDecodedRecord := by
  refine ⟨fun s a bs more rest i ho hs hd _ => ?_, fun s k rest rq ho hs hk => ⟨fun he => ?_, fun he => ?_⟩⟩
  · rw [step_oracle ho, stepScript_record hs hd]
    rfl
  · rw [step_oracle ho, stepScript_resume hs, resume_enabled (s := s.scriptTo rest) hk (by rwa [enabled_scriptTo])]
    rfl
  · rw [step_oracle ho, stepScript_resume hs, resume_blocked (s := s.scriptTo rest) hk (by rwa [enabled_scriptTo])]
    rfl

/-! ## Refused operations (R127, R335) -/

/-- Whatever keeps an operation from being presentable with good operands refuses it. -/
theorem exec_refused_of_not {i : Instr} {s : State} (h : ¬(Presentable i s ∧ s.operandRefusal i = none)) :
    ∃ r, exec i s = .refused r := by
  have hr : s.refusal i ≠ none := fun hn => h ((refusal_eq_none_iff i s).1 hn)
  obtain ⟨r, hr⟩ := Option.ne_none_iff_exists'.1 hr
  exact ⟨r, exec_refused.2 hr⟩

theorem exec_refused_of_operand {i : Instr} {s : State} (h : s.operandRefusal i ≠ none) : ∃ r, exec i s = .refused r :=
  exec_refused_of_not fun ⟨_, ho⟩ => h ho

theorem exec_refused_of_agent {i : Instr} {s : State} (h : mayIssue s.env.agent i = false) : ∃ r, exec i s = .refused r :=
  exec_refused_of_not fun ⟨⟨_, hm, _⟩, _⟩ => Bool.false_ne_true (h.symm.trans hm)

theorem exec_refused_of_portBusy {i : Instr} {s : State} {rq : Request} (hrq : rq ∈ s.env.pending) (hi : portOf i ≠ none)
    (hp : portOf rq.instr = portOf i) : ∃ r, exec i s = .refused r :=
  exec_refused_of_not fun ⟨⟨_, _, hfree⟩, _⟩ => hfree rq hrq hi hp

/-- Only an issuer R112 names may issue an operation: any agent `NOP`, HOST or DEMOD `Q.CLOSE`. -/
theorem mayIssue_eq_false {a : Agent} {i : Instr} (hn : i ≠ .nop) (ha : a ≠ issuerOf i) (hq : i = .qClose → a ≠ .demod) :
    mayIssue a i = false := by
  cases i
  case nop => exact absurd rfl hn
  case qClose => exact Bool.or_eq_false_iff.2 ⟨beq_false_of_ne ha, beq_false_of_ne (hq rfl)⟩
  all_goals exact beq_false_of_ne ha

/-- `Q.ENQ` issued while `ext_sink` = 0 finds its pins disconnected (R200). -/
theorem operandRefusal_qEnq {s : State} {length : BitVec 24} {bytes : List Byte} (hx : s.cfg.extSink = false)
    (ha : s.env.again = false) : s.operandRefusal (.qEnq length bytes) ≠ none := by
  simp [State.operandRefusal, hx, ha]

/-- No acquire has an id of `REQ_IDS` or more, or one under which an acquire is suspended (R127, R216 c). -/
theorem operandRefusal_acquire {s : State} {r : ReqId} (h : s.build.reqIds ≤ r.toNat ∨ (r ≠ 0 ∧ r ∈ s.pool.waiters)) :
    s.operandRefusal (.poolAcq r) ≠ none ∧ s.operandRefusal (.poolAcqnb r) ≠ none := by
  by_cases hr : s.build.reqIds ≤ r.toNat
  · simp [State.operandRefusal, hr]
  · obtain ⟨h0, hw⟩ := h.resolve_left hr
    have hc : s.pool.waiters.contains r = true := List.contains_iff_mem.2 hw
    constructor
    · rw [State.operandRefusal, if_neg hr, if_pos ⟨h0, hc⟩]
      nofun
    · rw [State.operandRefusal, if_neg (not_or.2 ⟨h0, hr⟩), if_pos hc]
      nofun

theorem acquire_refused {s : State} {r : ReqId} (h : s.build.reqIds ≤ r.toNat ∨ (r ≠ 0 ∧ r ∈ s.pool.waiters)) :
    (∃ e, exec (.poolAcq r) s = .refused e) ∧ ∃ e, exec (.poolAcqnb r) s = .refused e :=
  ⟨exec_refused_of_operand (operandRefusal_acquire h).1, exec_refused_of_operand (operandRefusal_acquire h).2⟩

/-- Requester 0 is the pipeline: no agent outside the block acquires under its id (R127). -/
theorem acquire_zero_refused {s : State} (h : s.env.agent ≠ .pipe) :
    (∃ e, exec (.poolAcq 0) s = .refused e) ∧ ∃ e, exec (.poolAcqnb 0) s = .refused e := by
  constructor
  · exact exec_refused_of_agent (beq_false_of_ne h)
  · exact exec_refused_of_operand (by simp [State.operandRefusal])

/-- Settles O4, clause by clause: what decodes to nothing, then what the pins cannot form, then what is outstanding. -/
theorem unformableOperationsRefused : Obligations.UnformableOperationsRefused := by
  refine ⟨fun op rest h => decode_noSuchOpcode rest h, fun a rest h => decode_bitOperandReserved rest h,
    fun length cnt rest h => ?_, fun s length bytes hx ha => exec_refused_of_operand (operandRefusal_qEnq hx ha),
    fun s a bs more rest length bytes hx ho hs hd => ?_, fun s r h => acquire_refused (.inl h), fun s h => acquire_zero_refused h,
    fun s i hn ha hq => exec_refused_of_agent (mayIssue_eq_false hn ha hq), fun s a b bs rest e ho hs hd => ?_,
    fun s i rq hrq hi hp => exec_refused_of_portBusy hrq hi hp, fun s r h0 hw => acquire_refused (.inr ⟨h0, hw⟩)⟩
  · exact readTQ_packetTooLong .qEnq length rest h
  · rw [step_oracle ho, stepScript_record hs hd]
    exact exec_refused_of_operand (operandRefusal_qEnq hx rfl)
  · rw [step_oracle ho, stepScript_badRecord hs hd]

end Sys2Proof.Machine
end

section
/-!
PacketCodec (`40_codec.md`): the access code, the whitener, the CRC, the alignment, the layout of an encoded frame, the packet decoder
on every input, and which corruptions of a packet the decoder detects.
-/

namespace Sys2Proof.Machine

/-! ## The access code (R130, R131, R24) -/

/-- The two characters that stand for a bit (R130). -/
theorem charBit_eq (c : Byte) : charBit c = if c = 0x30 ∨ c = 0x31 then some (decide (c = 0x31)) else none := by
  by_cases h0 : c = 0x30
  · subst h0
    rfl
  · by_cases h1 : c = 0x31
    · subst h1
      rfl
    · rw [charBit, if_neg h0, if_neg h1, if_neg (not_or.2 ⟨h0, h1⟩)]

/-- A string of `0` and `1` gives its bits, any other string none (R130). -/
theorem charBits_eq (cs : List Byte) :
    charBits cs = if ∀ c ∈ cs, c = 0x30 ∨ c = 0x31 then some (cs.map fun c => decide (c = 0x31)) else none := by
  induction cs with
  | nil => rfl
  | cons c cs ih =>
    rw [charBits, charBit_eq, ih]
    by_cases hc : c = 0x30 ∨ c = 0x31
    · by_cases hcs : ∀ c ∈ cs, c = 0x30 ∨ c = 0x31
      · rw [if_pos hc, if_pos hcs, if_pos (by simpa only [List.forall_mem_cons] using And.intro hc hcs)]
        rfl
      · rw [if_pos hc, if_neg hcs, if_neg fun h => hcs fun d hd => h d (List.mem_cons_of_mem c hd)]
    · rw [if_neg hc]
      exact (if_neg fun h => hc (h c List.mem_cons_self)).symm

/-- A string that is not empty: more than 64 characters are invalid, any other is read character by character (R130). -/
theorem validateAccessCode_eq {chars : List Byte} (h : chars ≠ []) :
    validateAccessCode chars =
      if chars.length ≤ 64 ∧ ∀ c ∈ chars, c = 0x30 ∨ c = 0x31 then some (chars.map fun c => decide (c = 0x31)) else none := by
  rw [validateAccessCode, if_neg h, charBits_eq]
  by_cases hl : chars.length ≤ 64
  · rw [if_neg (by omega)]
    simp only [hl, true_and]
  · rw [if_pos (by omega), if_neg fun hc => hl hc.1]

/-- The value is built from the left: one more bit of the code shifts it up (R24). -/
theorem accessCodeValue_concat (code : Bits) (b : Bool) :
    accessCodeValue (code ++ [b]) = (accessCodeValue code <<< 1) ||| (BitVec.ofBool b).setWidth 64 := by
  simp [accessCodeValue]

/-- Bit `j` of the value is the code's bit `j` counted from its end, 0 where there is none (R24). -/
theorem accessCodeValue_getLsbD (code : Bits) (j : Nat) (hj : j < 64) :
    (accessCodeValue code).getLsbD j = (code.reverse[j]?).getD false := by
  induction code using List.reverseRecOn generalizing j with
  | nil => simp [accessCodeValue]
  | append_singleton code b ih =>
    rw [accessCodeValue_concat, List.reverse_concat]
    cases j with
    | zero => simp
    | succ j =>
      rw [List.getElem?_cons_succ, ← ih j (by omega)]
      simp [hj, -BitVec.getLsbD_eq_getElem]

/-- The mask has the bits below `n` (R24). -/
theorem accessCodeMask_getLsbD (n j : Nat) (hj : j < 64) : (accessCodeMask n).getLsbD j = decide (j < n) := by
  rw [accessCodeMask, BitVec.getLsbD_ofNat, Nat.testBit_two_pow_sub_one, decide_eq_true hj, Bool.true_and]

/-- Settles O7: the default code's value is computed, the rest holds of every string and code. -/
theorem accessCodeValidationAndValue : Obligations.AccessCodeValidationAndValue := by
  refine ⟨⟨defaultAccessCode, rfl, rfl, by decide +kernel⟩, fun chars h => validateAccessCode_eq h, fun code hl => ⟨fun i hi => ?_,
    fun j hj => ?_, fun j hj => accessCodeMask_getLsbD code.length j hj⟩⟩
  · have hrev : code.length - 1 - i < code.length := by omega
    have hidx : code.length - 1 - (code.length - 1 - i) = i := by omega
    rw [accessCodeValue_getLsbD code _ (by omega), List.getElem?_reverse hrev, hidx, List.getElem?_eq_getElem hi, Option.getD_some]
  · by_cases h64 : j < 64
    · rw [accessCodeValue_getLsbD code j h64, List.getElem?_eq_none (by simpa using hj), Option.getD_none]
    · exact BitVec.getLsbD_of_ge _ j (by omega)

/-! ## The whitening sequence (R132, R133) -/

/-- One shift moves each bit down and feeds bit 8 (R132). -/
theorem lfsrShift_getLsbD (s : BitVec 9) (i : Nat) (hi : i < 9) :
    (lfsrShift s).getLsbD i = if i = 8 then (s.getLsbD 0 ^^ s.getLsbD 5) else s.getLsbD (i + 1) := by
  unfold lfsrShift
  by_cases h8 : i = 8
  · subst h8
    simp
  · have hlow : i < 8 := by omega
    simp [h8, hlow, Nat.add_comm]

/-- Each shift moves the register's bits down by one, so `m` shifts bring bit `i + m` to bit `i`. -/
theorem lfsrShift_iterate_getLsbD (m : Nat) (s : BitVec 9) (i : Nat) (h : i + m < 9) :
    (lfsrShift^[m] s).getLsbD i = s.getLsbD (i + m) := by
  induction m generalizing s with
  | zero => rfl
  | succ m ih =>
    rw [Function.iterate_succ_apply, ih _ (by omega), lfsrShift_getLsbD _ _ (by omega), if_neg (by omega), Nat.add_assoc]

/-- The register's nine bits are the next nine bits of the output sequence. -/
theorem lfsrShift_iterate_add_getLsbD (j i : Nat) (s : BitVec 9) (hi : i < 9) :
    (lfsrShift^[j + i] s).getLsbD 0 = (lfsrShift^[j] s).getLsbD i := by
  rw [Nat.add_comm, Function.iterate_add_apply, lfsrShift_iterate_getLsbD i _ 0 (by omega), Nat.zero_add]

/-- The recurrence of x^9 + x^5 + 1 (R132). -/
theorem lfsrShift_recurrence (j : Nat) (s : BitVec 9) :
    (lfsrShift^[j + 9] s).getLsbD 0 = ((lfsrShift^[j] s).getLsbD 0 ^^ (lfsrShift^[j + 5] s).getLsbD 0) := by
  have hlast : (lfsrShift^[j + 9] s).getLsbD 0 = (lfsrShift (lfsrShift^[j] s)).getLsbD 8 := by
    rw [← Function.iterate_succ_apply' lfsrShift j s]
    exact lfsrShift_iterate_add_getLsbD (j + 1) 8 s (by omega)
  rw [hlast, lfsrShift_getLsbD _ 8 (by omega), if_pos rfl, lfsrShift_iterate_add_getLsbD j 5 s (by omega)]

/-- From nine ones the register comes back after 511 shifts (R132). -/
theorem lfsrShift_period : Function.IsPeriodicPt lfsrShift 511 0x1FF := by
  show lfsrShift^[511] 0x1FF = 0x1FF
  decide +kernel

/-- The register before byte `k` has made 8 shifts for each byte before. -/
theorem lfsrAt_eq_iterate (k : Nat) : lfsrAt k = lfsrShift^[8 * k] 0x1FF := by
  induction k with
  | zero => rfl
  | succ k ih =>
    rw [lfsrAt, ih, Nat.mul_succ, Nat.add_comm, Function.iterate_add_apply]
    rfl

/-- A sequence byte is the next eight output bits, first bit lowest (R132). -/
theorem pn_getLsbD (k i : Nat) (hi : i < 8) : (pn k).getLsbD i = (lfsrShift^[8 * k + i] 0x1FF).getLsbD 0 := by
  rw [lfsrShift_iterate_add_getLsbD _ i _ (by omega), ← lfsrAt_eq_iterate, pn, BitVec.getLsbD_setWidth]
  simp [hi]

/-- Settles O9: the period of the register is that of its output bits, and 8 periods of bits are 511 bytes. -/
theorem whiteningSequenceOfPeriod511 : Obligations.WhiteningSequenceOfPeriod511 := by
  refine ⟨fun j hj => ?_, fun j => lfsrShift_recurrence j _, fun j => ?_, fun k i hi => pn_getLsbD k i hi, fun k => ?_⟩
  · have hones : ∀ i < 9, (0x1FF : BitVec 9).getLsbD i = true := by decide
    exact (lfsrShift_iterate_getLsbD j _ 0 (by omega)).trans ((Nat.zero_add j).symm ▸ hones j hj)
  · show (lfsrShift^[j + 511] 0x1FF).getLsbD 0 = (lfsrShift^[j] 0x1FF).getLsbD 0
    rw [Function.iterate_add_apply, lfsrShift_period.eq]
  · rw [pn, pn, lfsrAt_eq_iterate, lfsrAt_eq_iterate, Nat.mul_add, Function.iterate_add_apply, (lfsrShift_period.const_mul 8).eq]

/-! ## Whitening (R134) -/

/-- Whitening from the register before byte `k` meets payload byte `i` with sequence byte `k + i`. -/
theorem whitenFrom_lfsrAt_getElem? (k : Nat) (p : List Byte) (i : Nat) :
    (whitenFrom (lfsrAt k) p)[i]? = (p[i]?).map (· ^^^ pn (k + i)) := by
  induction p generalizing k i with
  | nil => rfl
  | cons x xs ih =>
    cases i with
    | zero => rfl
    | succ i =>
      rw [whitenFrom, List.getElem?_cons_succ, List.getElem?_cons_succ, Nat.add_comm i 1, ← Nat.add_assoc]
      exact ih (k + 1) i

/-- The register does not depend on the payload, so the same sequence is met twice and cancels. -/
theorem whitenFrom_whitenFrom (s : BitVec 9) (p : List Byte) : whitenFrom s (whitenFrom s p) = p := by
  induction p generalizing s with
  | nil => rfl
  | cons x xs ih => rw [whitenFrom, whitenFrom, ih, BitVec.xor_assoc, BitVec.xor_self, BitVec.xor_zero]

@[simp] theorem whiten_length (p : List Byte) (off : BitVec 4) : (whiten p off).length = p.length :=
  whitenFrom_length _ p

theorem whiten_getElem? (p : List Byte) (off : BitVec 4) (i : Nat) :
    (whiten p off)[i]? = (p[i]?).map (· ^^^ pn (off.toNat + i)) :=
  whitenFrom_lfsrAt_getElem? _ p i

/-- De-whitening is whitening (R134). -/
@[simp] theorem whiten_whiten (p : List Byte) (off : BitVec 4) : whiten (whiten p off) off = p :=
  whitenFrom_whitenFrom _ p

/-- Settles O10. -/
theorem whiteningPointwiseAndInvolutive : Obligations.WhiteningPointwiseAndInvolutive := fun p off =>
  ⟨whiten_length p off, fun i h => by rw [whiten_getElem?, List.getElem?_eq_getElem h, Option.map_some], whiten_whiten p off⟩

/-! ## Alignment and padding (R140, R141) -/

/-- A frame of whole symbols spans whole alignment units when it is a multiple of the units' symbols. -/
theorem dvd_div_mul_iff {a s b F : Nat} (ha : 1 ≤ a) (hb : 1 ≤ b) :
    b * a / Nat.gcd a s ∣ F ↔ b ∣ F ∧ a ∣ F / b * s := by
  have hg : Nat.gcd a s ∣ a := Nat.gcd_dvd_left a s
  have hg0 : 0 < Nat.gcd a s := Nat.gcd_pos_of_pos_left s ha
  have hunits (t : Nat) : b * a / Nat.gcd a s ∣ b * t ↔ a ∣ t * s := by
    rw [Nat.mul_div_assoc b hg, Nat.mul_dvd_mul_iff_left hb, Nat.div_dvd_iff_dvd_mul hg hg0, Nat.dvd_gcd_mul_iff_dvd_mul,
      Nat.mul_comm]
  constructor
  · intro h
    have hbF : b ∣ F := dvd_trans (Nat.mul_div_assoc b hg ▸ Nat.dvd_mul_right b _) h
    obtain ⟨t, rfl⟩ := hbF
    rw [Nat.mul_div_cancel_left t hb]
    exact ⟨Nat.dvd_mul_right b t, (hunits t).1 h⟩
  · rintro ⟨⟨t, rfl⟩, h⟩
    rw [Nat.mul_div_cancel_left t hb] at h
    exact (hunits t).2 h

/-- The modulus divides a frame length exactly when bytes, symbols and alignment units come out whole (R140). -/
theorem alignModulus_dvd_iff {alignSamples sps bps F : Nat} (ha : 1 ≤ alignSamples) (hb : 1 ≤ bps) :
    alignModulus alignSamples sps bps ∣ F ↔ 8 ∣ F ∧ bps ∣ F ∧ alignSamples ∣ F / bps * sps := by
  rw [alignModulus, Nat.lcm_dvd_iff, dvd_div_mul_iff ha hb]

/-- With an alignment of one sample only bytes and symbols count (R140). -/
theorem alignModulus_one (sps bps : Nat) : alignModulus 1 sps bps = Nat.lcm 8 bps := by
  rw [alignModulus, Nat.gcd_one_left, Nat.mul_one, Nat.div_one]

theorem eight_dvd_alignModulus (alignSamples sps bps : Nat) : 8 ∣ alignModulus alignSamples sps bps :=
  Nat.dvd_lcm_left 8 _

theorem alignModulus_pos {alignSamples sps bps : Nat} (ha : 1 ≤ alignSamples) (hb : 1 ≤ bps) :
    0 < alignModulus alignSamples sps bps := by
  refine Nat.lcm_pos (by decide) (Nat.div_pos ?_ (Nat.gcd_pos_of_pos_left sps ha))
  exact (Nat.gcd_le_left sps ha).trans (Nat.le_mul_of_pos_left alignSamples hb)

/-- No padding behind a whole number of moduli, the rest of one otherwise (R141). -/
theorem padBits_eq {M : Nat} (core : Nat) (hM : 0 < M) : padBits M core = if core % M = 0 then 0 else M - core % M := by
  unfold padBits
  split
  next h => rw [h, Nat.sub_zero, Nat.mod_self]
  next h => exact Nat.mod_eq_of_lt (by omega)

/-- The padding completes a multiple of the modulus (R141). -/
theorem dvd_add_padBits {M : Nat} (core : Nat) (hM : 0 < M) : M ∣ core + padBits M core := by
  rw [padBits_eq core hM]
  split
  next h => exact Nat.dvd_of_mod_eq_zero h
  next h =>
    have hlt := Nat.mod_lt core hM
    have hdiv := Nat.mod_add_div core M
    exact ⟨core / M + 1, by rw [Nat.mul_succ]; omega⟩

/-- No shorter padding completes a multiple of the modulus (R141). -/
theorem padBits_le {M core P : Nat} (hM : 0 < M) (h : M ∣ core + P) : padBits M core ≤ P := by
  rw [padBits_eq core hM]
  split
  next => exact Nat.zero_le P
  next hr =>
    have hdvd : M ∣ core % M + P := Nat.dvd_of_mod_eq_zero (by rw [Nat.mod_add_mod]; exact Nat.mod_eq_zero_of_dvd h)
    have hle := Nat.le_of_dvd (by omega) hdvd
    omega

/-- The padding as the rule writes it (R141). -/
theorem padding_eq (P : Nat) : padding P = (List.range P).map fun j => decide (j % 2 = 1) := rfl

/-- Settles O11. -/
theorem alignmentAndPadding : Obligations.AlignmentAndPadding := by
  refine ⟨fun a s b ha _ hb => ⟨fun F => alignModulus_dvd_iff ha hb, alignModulus_one s b⟩, fun M core hM => ⟨rfl,
    Nat.mod_lt _ hM, dvd_add_padBits core hM, fun P => padBits_le hM, fun h => (padBits_eq core hM).trans (if_pos h),
    fun P => ⟨padding_length P, fun j hj => ?_⟩, fun _ _ => rfl, fun _ _ _ => rfl⟩⟩
  rw [padding_eq, List.getElem?_map, List.getElem?_range hj, Option.map_some]

/-! ## The encoded frame (R91, R93, R143) -/

/-- The bits of a frame from the header to the end of the trailer come from these bytes (R143): what the decoder reads. -/
def packetBytes (off : BitVec 4) (pad : Nat) (payload : List Byte) : List Byte :=
  headerBytes off pad payload.length ++ whiten payload off ++ be32 (crc32 (headerBytes off pad payload.length ++ payload))

@[simp] theorem packetBytes_length (off : BitVec 4) (pad : Nat) (payload : List Byte) :
    (packetBytes off pad payload).length = 8 + payload.length := by
  simp only [packetBytes, List.length_append, headerBytes_length, whiten_length, be32_length]
  omega

/-- The header byte 0 is VER above OFFSET (R93). -/
theorem headerBytes_eq (off : BitVec 4) (P L : Nat) :
    headerBytes off P L =
      [0x10 ||| off.setWidth 8, BitVec.ofNat 8 (min 255 (P / 8)), BitVec.ofNat 8 (L / 256), BitVec.ofNat 8 (L % 256)] := by
  have hver : Config.frameVersion ++ off = 0x10 ||| off.setWidth 8 := by
    revert off
    decide
  have hlow : BitVec.ofNat 8 L = BitVec.ofNat 8 (L % 256) := BitVec.eq_of_toNat_eq (by simp)
  rw [headerBytes, hver, hlow]

/-- The bits of a frame: access code, packet, padding (R91, R143). They fill whole bytes, so `pack` loses none. -/
theorem bits_encodeFrame {alignSamples sps bps : Nat} (payload : List Byte) (ac : Bits) (off : BitVec 4) (ha : 1 ≤ alignSamples)
    (hb : 1 ≤ bps) :
    bits (encodeFrame alignSamples payload sps bps ac off) =
      ac ++ bits (packetBytes off (padBits (alignModulus alignSamples sps bps) (coreBits ac.length payload.length)) payload) ++
        padding (padBits (alignModulus alignSamples sps bps) (coreBits ac.length payload.length)) := by
  have hdvd := (eight_dvd_alignModulus alignSamples sps bps).trans
    (dvd_add_padBits (coreBits ac.length payload.length) (alignModulus_pos (sps := sps) ha hb))
  simp only [encodeFrame, packetBytes, bits_append, ← List.append_assoc]
  refine bits_pack _ ?_
  simp only [List.length_append, bits_length, headerBytes_length, whiten_length, be32_length, padding_length]
  rw [coreBits] at hdvd ⊢
  omega

/-- Settles O12: the lengths follow from the frame's bits. -/
theorem frameLayout : Obligations.FrameLayout := by
  intro a s b payload ac off ha _ hb hn _ _ core M P H frame
  have hbits : bits frame = ac ++ bits (packetBytes off P payload) ++ padding P := bits_encodeFrame payload ac off ha hb
  have hlen : 8 * frame.length = core + P := by
    have h := congrArg List.length hbits
    simp only [bits_length, List.length_append, packetBytes_length, padding_length] at h
    show 8 * frame.length = ac.length + 64 + 8 * payload.length + P
    omega
  refine ⟨?_, hlen, ?_⟩
  · rw [hbits, packetBytes, headerBytes_eq, bits_append, bits_append, padding_eq]
    simp only [List.append_assoc]
    rfl
  · intro hnil
    rw [hnil] at hlen
    have hcore : core = ac.length + 64 + 8 * payload.length := rfl
    simp only [List.length_nil] at hlen
    omega

/-! ## The packet decoder (R145, R146) -/

/-- Byte `k` of a packet as a number, 0 where there is none. -/
def packetByte (raw : List Byte) (k : Nat) : Nat := ((raw[k]?).getD 0).toNat

/-- The LENGTH field of the header (R93). -/
def lengthField (raw : List Byte) : Nat := 256 * packetByte raw 2 + packetByte raw 3

/-- The payload the decoder recovers: LENGTH bytes behind the header, de-whitened from OFFSET on (R146). -/
def plainPayload (raw : List Byte) : List Byte :=
  whiten ((raw.drop 4).take (lengthField raw)) (BitVec.ofNat 4 (packetByte raw 0 % 16))

/-- The bytes the CRC covers: the header as received and the recovered payload (R137). -/
def coveredBytes (raw : List Byte) : List Byte := raw.take 4 ++ plainPayload raw

/-- The CRC received, behind the payload (R137). -/
def trailer (raw : List Byte) : Word := fromBe32 (raw.drop (4 + lengthField raw))

theorem packetByte_lt (raw : List Byte) (k : Nat) : packetByte raw k < 256 := BitVec.isLt _

/-- A byte read out of the header is that byte of the packet. -/
theorem toNat_take_getD {raw : List Byte} {n k : Nat} (h : k < n) : ((raw.take n).getD k 0).toNat = packetByte raw k := by
  rw [List.getD_eq_getElem?_getD, List.getElem?_take_of_lt h, packetByte]

/-- VER is the upper half of byte 0 (R93). -/
theorem version_iff (raw : List Byte) :
    ((raw.take 4).getD 0 0).extractLsb' 4 4 = Config.frameVersion ↔ packetByte raw 0 / 16 = 1 := by
  have hlt := packetByte_lt raw 0
  rw [← BitVec.toNat_inj, BitVec.extractLsb'_toNat, Nat.shiftRight_eq_div_pow, toNat_take_getD (by decide)]
  show packetByte raw 0 / 16 % 16 = 1 ↔ _
  omega

/-- OFFSET is the lower half of byte 0 (R93). -/
theorem offset_eq (raw : List Byte) :
    ((raw.take 4).getD 0 0).extractLsb' 0 4 = BitVec.ofNat 4 (packetByte raw 0 % 16) := by
  refine BitVec.eq_of_toNat_eq ?_
  rw [BitVec.extractLsb'_toNat, toNat_take_getD (by decide), Nat.shiftRight_zero, BitVec.toNat_ofNat]
  exact (Nat.mod_mod _ _).symm

/-- LENGTH is bytes 2 and 3, most significant first (R93). -/
theorem toNat_fromBe16_header (raw : List Byte) :
    (fromBe16 ((raw.take 4).getD 2 0) ((raw.take 4).getD 3 0)).toNat = lengthField raw := by
  rw [fromBe16, toNat_append_two, toNat_take_getD (by decide), toNat_take_getD (by decide), lengthField]

/-- The received CRC as a number, most significant byte first (R137). -/
theorem toNat_trailer (raw : List Byte) :
    (trailer raw).toNat =
      16777216 * packetByte raw (4 + lengthField raw) + 65536 * packetByte raw (5 + lengthField raw) +
        256 * packetByte raw (6 + lengthField raw) + packetByte raw (7 + lengthField raw) := by
  have hbyte (k : Nat) : ((raw.drop (4 + lengthField raw)).getD k 0).toNat = packetByte raw (4 + lengthField raw + k) := by
    rw [List.getD_eq_getElem?_getD, List.getElem?_drop, packetByte]
  rw [trailer, fromBe32, toNat_append_four, hbyte, hbyte, hbyte, hbyte, Nat.add_zero, Nat.add_right_comm 4 _ 1,
    Nat.add_right_comm 4 _ 2, Nat.add_right_comm 4 _ 3]

/-- The decoder's four tests in their order, on the packet's fields (R146). -/
theorem decodePacket_eq (raw : List Byte) (hint : BitVec 24) :
    decodePacket raw hint =
      if min raw.length hint.toNat < 8 then .fail .tooShort
      else if packetByte raw 0 / 16 ≠ 1 then .fail .badVersion
      else if min raw.length hint.toNat < 8 + lengthField raw then .fail .lengthInconsistent
      else if crc32 (coveredBytes raw) = trailer raw then .ok (plainPayload raw) else .fail .crcMismatch := by
  simp only [decodePacket, offset_eq, toNat_fromBe16_header, version_iff, ne_eq]
  rw [ite_not (crc32 _ = _)]
  rfl

/-- A packet of this version that holds the bytes its LENGTH asks for is judged by its CRC alone (R146). -/
theorem decodePacket_checked {raw : List Byte} {hint : BitVec 24} (hv : packetByte raw 0 / 16 = 1)
    (hl : 8 + lengthField raw ≤ min raw.length hint.toNat) :
    decodePacket raw hint = if crc32 (coveredBytes raw) = trailer raw then .ok (plainPayload raw) else .fail .crcMismatch := by
  rw [decodePacket_eq, if_neg (by omega), if_neg (not_not.2 hv), if_neg (by omega)]

/-- What decodes has passed all four tests (R146). -/
theorem decodePacket_eq_ok {raw p : List Byte} {hint : BitVec 24} :
    decodePacket raw hint = .ok p ↔
      packetByte raw 0 / 16 = 1 ∧ 8 + lengthField raw ≤ min raw.length hint.toNat ∧ crc32 (coveredBytes raw) = trailer raw ∧
        plainPayload raw = p := by
  constructor
  · intro h
    rw [decodePacket_eq] at h
    split_ifs at h with _ hv hl hc
    exact ⟨not_not.1 hv, Nat.not_lt.1 hl, hc, DecodeResult.ok.inj h⟩
  · rintro ⟨hv, hl, hc, rfl⟩
    rw [decodePacket_checked hv hl, if_pos hc]

/-- Settles O13. -/
theorem packetDecoderClassifies : Obligations.PacketDecoderClassifies := by
  intro raw hint m byte L p
  refine ⟨fun hm => ?_, fun hm hv => ?_, fun hm hv hl => ?_, fun _ hv hl => ?_⟩
  · exact (decodePacket_eq raw hint).trans (if_pos hm)
  · exact (decodePacket_eq raw hint).trans ((if_neg (Nat.not_lt.2 hm)).trans (if_pos hv))
  · exact (decodePacket_eq raw hint).trans
      ((if_neg (Nat.not_lt.2 hm)).trans ((if_neg (not_not.2 hv)).trans (if_pos hl)))
  · simp only [decodePacket_checked hv hl, ← BitVec.toNat_inj, toNat_trailer]
    rfl

/-! ## The round trip (R148) -/

/-- `from_be32` reads back what `be32` wrote (R16). -/
theorem fromBe32_be32_append (v : Word) (rest : List Byte) : fromBe32 (be32 v ++ rest) = v := by
  refine BitVec.eq_of_toNat_eq ((toNat_append_four _ _ _ _).trans ?_)
  have h := v.isLt
  simp only [be32, List.cons_append, List.getD_cons_zero, List.getD_cons_succ, toNat_extractLsb'_byte]
  omega

/-- The decoder reads VER, OFFSET and LENGTH back from the header the encoder wrote (R94). -/
theorem header_fields_packetBytes {P : List Byte} (off : BitVec 4) (pad : Nat) (rest : List Byte) (hP : P.length ≤ 65535) :
    packetByte (packetBytes off pad P ++ rest) 0 = 16 + off.toNat ∧ lengthField (packetBytes off pad P ++ rest) = P.length := by
  constructor
  · exact toNat_append_eq Config.frameVersion off
  · show 256 * (BitVec.ofNat 8 (P.length / 256)).toNat + (BitVec.ofNat 8 P.length).toNat = P.length
    rw [BitVec.toNat_ofNat, BitVec.toNat_ofNat]
    omega

/-- The decoder recovers payload, covered bytes and trailer of the packet the encoder wrote (R148). -/
theorem packet_parts_packetBytes {P : List Byte} (off : BitVec 4) (pad : Nat) (rest : List Byte) (hP : P.length ≤ 65535) :
    plainPayload (packetBytes off pad P ++ rest) = P ∧
      coveredBytes (packetBytes off pad P ++ rest) = headerBytes off pad P.length ++ P ∧
      trailer (packetBytes off pad P ++ rest) = crc32 (headerBytes off pad P.length ++ P) := by
  obtain ⟨hbyte, hlen⟩ := header_fields_packetBytes off pad rest hP
  have hparts : packetBytes off pad P ++ rest =
      headerBytes off pad P.length ++ (whiten P off ++ (be32 (crc32 (headerBytes off pad P.length ++ P)) ++ rest)) := by
    simp only [packetBytes, List.append_assoc]
  have hoff : BitVec.ofNat 4 (packetByte (packetBytes off pad P ++ rest) 0 % 16) = off := by
    rw [hbyte]
    refine BitVec.eq_of_toNat_eq ?_
    have hlt := off.isLt
    rw [BitVec.toNat_ofNat]
    omega
  have hplain : plainPayload (packetBytes off pad P ++ rest) = P := by
    rw [plainPayload, hoff, hlen, hparts, List.drop_left' (headerBytes_length ..), List.take_left' (whiten_length P off),
      whiten_whiten]
  refine ⟨hplain, ?_, ?_⟩
  · rw [coveredBytes, hplain, hparts, List.take_left' (headerBytes_length ..)]
  · rw [trailer, hlen, hparts, ← List.drop_drop, List.drop_left' (headerBytes_length ..), List.drop_left' (whiten_length P off),
      fromBe32_be32_append]

/-- The decoder undoes the encoder, whatever follows the packet (R148). -/
theorem decodePacket_packetBytes {P : List Byte} (off : BitVec 4) (pad : Nat) (rest : List Byte) {hint : BitVec 24}
    (hP : P.length ≤ 65535) (hh : 8 + P.length ≤ hint.toNat) : decodePacket (packetBytes off pad P ++ rest) hint = .ok P := by
  obtain ⟨hbyte, hlen⟩ := header_fields_packetBytes off pad rest hP
  obtain ⟨hplain, hcovered, htrailer⟩ := packet_parts_packetBytes off pad rest hP
  have hoff := off.isLt
  refine decodePacket_eq_ok.2 ⟨by omega, ?_, by rw [hcovered, htrailer], hplain⟩
  rw [hlen, List.length_append, packetBytes_length]
  omega

/-- Bytes whose bits begin with those of other bytes begin with those bytes. -/
theorem eq_append_of_bits_take {raw bs : List Byte} (h : (bits raw).take (8 * bs.length) = bits bs) :
    raw = bs ++ raw.drop bs.length := by
  have hlen : bs.length ≤ raw.length := by
    have hl := congrArg List.length h
    simp only [List.length_take, bits_length] at hl
    omega
  have hsplit : bits raw = bits (raw.take bs.length) ++ bits (raw.drop bs.length) := by
    rw [← bits_append, List.take_append_drop]
  have htake : bits (raw.take bs.length) = bits bs := by
    rw [← h, hsplit, List.take_left']
    rw [bits_length, List.length_take, Nat.min_eq_left hlen]
  have hbs : raw.take bs.length = bs := by
    rw [← pack_bits (raw.take bs.length), htake, pack_bits]
  rw [← congrArg (· ++ raw.drop bs.length) hbs, List.take_append_drop]

/-- Settles O14: what is cut from the frame begins with the packet, and the decoder undoes the encoder on that. -/
theorem roundTripLaw : Obligations.RoundTripLaw := by
  intro a s b P raw ac off hint ha _ hb _ _ hP hraw hbits hh
  have hframe := bits_encodeFrame (sps := s) P ac off ha hb
  generalize padBits (alignModulus a s b) (coreBits ac.length P.length) = pad at hframe
  have hpacket : raw = packetBytes off pad P ++ raw.drop (packetBytes off pad P).length := by
    refine eq_append_of_bits_take ?_
    rw [hbits, hframe, List.append_assoc, List.drop_left, List.take_take, packetBytes_length, Nat.min_eq_left (by omega),
      List.take_left']
    rw [bits_length, packetBytes_length]
  rw [hpacket]
  exact decodePacket_packetBytes off pad _ hP hh

/-! ## Errors the CRC detects (R136, R149) -/

/-- The bit shifted out comes back as bit 31, which the polynomial sets (R135). -/
theorem crcShift_getLsbD_31 (c : BitVec 32) : (crcShift c).getLsbD 31 = c.getLsbD 0 := by
  unfold crcShift
  split
  next h => simp [h]
  next h => simpa using h

/-- A shift of the CRC register loses no bit. -/
theorem crcShift_injective : Function.Injective crcShift := by
  intro c d h
  have hlow : c.getLsbD 0 = d.getLsbD 0 := by
    rw [← crcShift_getLsbD_31 c, ← crcShift_getLsbD_31 d, h]
  have hhigh : c >>> 1 = d >>> 1 := by
    unfold crcShift at h
    rw [hlow] at h
    split at h
    next => exact (BitVec.xor_left_inj _).1 h
    next => exact h
  refine BitVec.eq_of_getLsbD_eq fun i hi => ?_
  cases i with
  | zero => exact hlow
  | succ i => simpa [Nat.add_comm] using congrArg (fun v : BitVec 32 => v.getLsbD i) hhigh

/-- The eight shifts of a byte (R136). -/
theorem crcByte_eq_iterate (c : BitVec 32) (b : Byte) : crcByte c b = crcShift^[8] (c ^^^ b.setWidth 32) := rfl

theorem crcByte_left_injective (b : Byte) : Function.Injective (crcByte · b) := fun _ _ h =>
  (BitVec.xor_left_inj _).1 (crcShift_injective.iterate 8 h)

theorem crcByte_right_injective (c : BitVec 32) : Function.Injective (crcByte c) := by
  intro a b h
  have hwide : a.setWidth 32 = b.setWidth 32 := (BitVec.xor_right_inj _).1 (crcShift_injective.iterate 8 h)
  have h8 := congrArg (BitVec.setWidth 8) hwide
  simpa using h8

/-- Different registers stay different over the same bytes. -/
theorem foldl_crcByte_injective (bs : List Byte) : Function.Injective fun c => bs.foldl crcByte c := by
  induction bs with
  | nil => exact fun _ _ h => h
  | cons b bs ih => exact fun _ _ h => crcByte_left_injective b (ih h)

/-- One other byte gives another register at the end. -/
theorem foldl_crcByte_set_ne {bs : List Byte} {k : Nat} {v : Byte} (c : BitVec 32) (hk : k < bs.length) (hv : bs[k]? ≠ some v) :
    (bs.set k v).foldl crcByte c ≠ bs.foldl crcByte c := by
  induction bs generalizing k c with
  | nil => exact absurd hk (Nat.not_lt_zero k)
  | cons b bs ih =>
    cases k with
    | zero => exact fun h => hv (congrArg some (crcByte_right_injective c (foldl_crcByte_injective bs h)).symm)
    | succ k => exact ih (crcByte c b) (Nat.lt_of_succ_lt_succ hk) hv

/-- The CRC tells two sequences apart that differ in one byte (R149). -/
theorem crc32_set_ne {bs : List Byte} {k : Nat} {v : Byte} (hk : k < bs.length) (hv : bs[k]? ≠ some v) :
    crc32 (bs.set k v) ≠ crc32 bs := fun h =>
  foldl_crcByte_set_ne 0xFFFFFFFF hk hv ((BitVec.xor_left_inj _).1 h)

/-! ## One corrupted byte (R149) -/

theorem packetByte_set_ne {raw : List Byte} {k j : Nat} (v : Byte) (h : k ≠ j) : packetByte (raw.set k v) j = packetByte raw j := by
  rw [packetByte, List.getElem?_set_ne h, packetByte]

theorem packetByte_set_self {raw : List Byte} {k : Nat} (v : Byte) (h : k < raw.length) :
    packetByte (raw.set k v) k = v.toNat := by
  rw [packetByte, List.getElem?_set_self h, Option.getD_some]

/-- A byte other than the one there has another number. -/
theorem packetByte_ne {raw : List Byte} {k : Nat} {v : Byte} (hk : k < raw.length) (hv : raw[k]? ≠ some v) :
    packetByte raw k ≠ v.toNat := by
  rw [packetByte, List.getElem?_eq_getElem hk, Option.getD_some]
  exact fun h => hv (by rw [List.getElem?_eq_getElem hk, BitVec.eq_of_toNat_eq h])

/-- A corruption outside bytes 0, 2 and 3 leaves LENGTH (R149). -/
theorem lengthField_set {raw : List Byte} {k : Nat} (v : Byte) (h : k = 1 ∨ 4 ≤ k) :
    lengthField (raw.set k v) = lengthField raw := by
  rw [lengthField, packetByte_set_ne v (by omega), packetByte_set_ne v (by omega), lengthField]

/-- One whitened byte changed is that payload byte changed (R134). -/
theorem whiten_set (p : List Byte) (off : BitVec 4) (i : Nat) (v : Byte) :
    whiten (p.set i v) off = (whiten p off).set i (v ^^^ pn (off.toNat + i)) := by
  refine List.ext_getElem? fun j => ?_
  rw [whiten_getElem?, List.getElem?_set, List.getElem?_set, whiten_length, whiten_getElem?]
  by_cases hij : i = j
  · subst hij
    rw [if_pos rfl, if_pos rfl]
    split <;> rfl
  · rw [if_neg hij, if_neg hij]

/-- A corrupted packet's payload: LENGTH and OFFSET are as they were. -/
theorem plainPayload_set {raw : List Byte} {k : Nat} (v : Byte) (h : k = 1 ∨ 4 ≤ k) :
    plainPayload (raw.set k v) =
      whiten (((raw.set k v).drop 4).take (lengthField raw)) (BitVec.ofNat 4 (packetByte raw 0 % 16)) := by
  rw [plainPayload, lengthField_set v h, packetByte_set_ne v (by omega)]

/-- The PADLEN byte is covered as it is received (R137). -/
theorem coveredBytes_set_padlen (raw : List Byte) (v : Byte) (hl : 4 ≤ raw.length) :
    coveredBytes (raw.set 1 v) = (coveredBytes raw).set 1 v := by
  have hhead : (raw.take 4).length = 4 := List.length_take_of_le hl
  have hplain : plainPayload (raw.set 1 v) = plainPayload raw := by
    rw [plainPayload_set v (.inl rfl), List.drop_set_of_lt (by decide), plainPayload]
  rw [coveredBytes, hplain, List.take_set, coveredBytes, List.set_append_left _ _ (by omega)]

/-- A payload byte is covered as it was before whitening (R137). -/
theorem coveredBytes_set_payload {raw : List Byte} (i : Nat) (v : Byte) (hl : 4 ≤ raw.length) :
    coveredBytes (raw.set (4 + i) v) =
      (coveredBytes raw).set (4 + i) (v ^^^ pn ((BitVec.ofNat 4 (packetByte raw 0 % 16)).toNat + i)) := by
  have hhead : (raw.take 4).length = 4 := List.length_take_of_le hl
  have hplain : plainPayload (raw.set (4 + i) v) =
      (plainPayload raw).set i (v ^^^ pn ((BitVec.ofNat 4 (packetByte raw 0 % 16)).toNat + i)) := by
    rw [plainPayload_set v (.inr (by omega)), List.drop_set, if_neg (by omega), Nat.add_sub_cancel_left, List.take_set, whiten_set,
      plainPayload]
  rw [coveredBytes, hplain, List.take_set_of_le (by omega), coveredBytes, List.set_append_right _ _ (by omega), hhead,
    Nat.add_sub_cancel_left]

/-- What is behind the payload is not covered (R137). -/
theorem coveredBytes_set_trailer {raw : List Byte} {k : Nat} (v : Byte) (hk : 4 + lengthField raw ≤ k) :
    coveredBytes (raw.set k v) = coveredBytes raw := by
  rw [coveredBytes, plainPayload_set v (.inr (by omega)), List.drop_set, if_neg (by omega), List.take_set_of_le (by omega),
    List.take_set_of_le (by omega), coveredBytes, plainPayload]

/-- The covered bytes are the header and the payload. -/
theorem coveredBytes_length {raw : List Byte} (h : 4 + lengthField raw ≤ raw.length) :
    (coveredBytes raw).length = 4 + lengthField raw := by
  simp only [coveredBytes, plainPayload, List.length_append, List.length_take, List.length_drop, whiten_length]
  omega

theorem coveredBytes_getElem?_header {raw : List Byte} {k : Nat} (hk : k < 4) (hl : 4 ≤ raw.length) :
    (coveredBytes raw)[k]? = raw[k]? := by
  rw [coveredBytes, List.getElem?_append_left (by rwa [List.length_take_of_le hl]), List.getElem?_take_of_lt hk]

theorem coveredBytes_getElem?_payload {raw : List Byte} {i : Nat} (hi : i < lengthField raw) (hl : 4 ≤ raw.length) :
    (coveredBytes raw)[4 + i]? =
      (raw[4 + i]?).map (· ^^^ pn ((BitVec.ofNat 4 (packetByte raw 0 % 16)).toNat + i)) := by
  have hhead : (raw.take 4).length = 4 := List.length_take_of_le hl
  rw [coveredBytes, List.getElem?_append_right (by omega), hhead, Nat.add_sub_cancel_left, plainPayload, whiten_getElem?,
    List.getElem?_take_of_lt hi, List.getElem?_drop]

/-- A corruption in front of the trailer leaves the CRC received. -/
theorem trailer_set_of_lt {raw : List Byte} {k : Nat} (v : Byte) (h : k = 1 ∨ 4 ≤ k) (hk : k < 4 + lengthField raw) :
    trailer (raw.set k v) = trailer raw := by
  rw [trailer, lengthField_set v h, List.drop_set_of_lt hk, trailer]

/-- A corrupted trailer byte gives another CRC received. -/
theorem trailer_set_ne {raw : List Byte} {k : Nat} {v : Byte} (hk : 4 + lengthField raw ≤ k) (hk' : k < 8 + lengthField raw)
    (hl : 8 + lengthField raw ≤ raw.length) (hv : raw[k]? ≠ some v) : trailer (raw.set k v) ≠ trailer raw := by
  intro h
  have hself := packetByte_set_self v (hk'.trans_le hl)
  have hother (j : Nat) (hj : k ≠ j) := packetByte_set_ne (raw := raw) v hj
  have hne := packetByte_ne (hk'.trans_le hl) hv
  have hnum := congrArg BitVec.toNat h
  rw [toNat_trailer, toNat_trailer, lengthField_set v (.inr (by omega))] at hnum
  obtain rfl | rfl | rfl | rfl : k = 4 + lengthField raw ∨ k = 5 + lengthField raw ∨ k = 6 + lengthField raw ∨
      k = 7 + lengthField raw := by omega
  all_goals
    simp (disch := omega) only [hother, hself] at hnum
    omega

/-- A corruption of PADLEN or of one payload byte gives another CRC over the covered bytes (R149). -/
theorem crc32_coveredBytes_set_ne {raw : List Byte} {k : Nat} {v : Byte} (h : k = 1 ∨ 4 ≤ k) (hk : k < 4 + lengthField raw)
    (hl : 4 + lengthField raw ≤ raw.length) (hv : raw[k]? ≠ some v) :
    crc32 (coveredBytes (raw.set k v)) ≠ crc32 (coveredBytes raw) := by
  have hlen : k < (coveredBytes raw).length := (coveredBytes_length hl).symm ▸ hk
  rcases h with rfl | h
  · rw [coveredBytes_set_padlen raw v (by omega)]
    exact crc32_set_ne hlen (by rwa [coveredBytes_getElem?_header (by decide) (by omega)])
  · obtain ⟨i, rfl⟩ := Nat.exists_eq_add_of_le h
    have hi : i < lengthField raw := by omega
    rw [coveredBytes_set_payload i v (by omega)]
    refine crc32_set_ne hlen ?_
    rw [coveredBytes_getElem?_payload hi (by omega)]
    intro hsame
    obtain ⟨b, hb, hxor⟩ := Option.map_eq_some_iff.1 hsame
    exact hv (hb.trans (congrArg some ((BitVec.xor_left_inj _).1 hxor)))

/-- Settles O15: in front of the trailer the CRC computed changes, in the trailer the CRC received. -/
theorem singleByteErrorDetected : Obligations.SingleByteErrorDetected := by
  intro raw hint p k v hok h hk hv
  obtain ⟨hver, hl, hcrc, rfl⟩ := decodePacket_eq_ok.1 hok
  have hraw : 8 + lengthField raw ≤ raw.length := hl.trans (Nat.min_le_left _ _)
  have hp : (plainPayload raw).length = lengthField raw := by
    rw [plainPayload, whiten_length, List.length_take, List.length_drop]
    omega
  rw [hp] at hk
  have hver' : packetByte (raw.set k v) 0 / 16 = 1 := by rwa [packetByte_set_ne v (by omega)]
  have hl' : 8 + lengthField (raw.set k v) ≤ min (raw.set k v).length hint.toNat := by
    rwa [lengthField_set v h, List.length_set]
  rw [decodePacket_checked hver' hl', if_neg]
  by_cases hfront : k < 4 + lengthField raw
  · rw [trailer_set_of_lt v h hfront, ← hcrc]
    exact crc32_coveredBytes_set_ne h hfront (by omega) hv
  · rw [coveredBytes_set_trailer v (by omega), hcrc]
    exact (trailer_set_ne (by omega) hk hraw hv).symm

/-! ## A burst the CRC does not detect (R149, log entry 17) -/

/-- The packet of the example of R146. -/
def sentPacket : List Byte := [0x10, 0x01, 0x00, 0x05, 0xB7, 0xA4, 0x51, 0xD6, 0xA2, 0xD1, 0xC8, 0x54, 0xD9]

/-- The same packet with `0A 1E E9 D5 E0` added to its payload: 32 consecutive bits of the wire, whose bytes, taken least significant
bit first as R136 takes them, make a multiple of the CRC polynomial. -/
def burstPacket : List Byte := [0x10, 0x01, 0x00, 0x05, 0xBD, 0xBA, 0xB8, 0x03, 0x42, 0xD1, 0xC8, 0x54, 0xD9]

/-- The packet as sent decodes (the example of R146). -/
theorem decodePacket_sentPacket : decodePacket sentPacket 13 = .ok [0x48, 0x45, 0x4C, 0x4C, 0x4F] := by decide +kernel

/-- The burst decodes too, to another payload. -/
theorem decodePacket_burstPacket : decodePacket burstPacket 13 = .ok [0x42, 0x5B, 0xA5, 0x99, 0xAF] := by decide +kernel

/-- The two packets differ only in the 32 bits from bit 36 on. -/
theorem bits_burstPacket (j : Nat) (hj : j < 36 ∨ 68 ≤ j) : (bits burstPacket)[j]? = (bits sentPacket)[j]? := by
  have hfront : (bits burstPacket).take 36 = (bits sentPacket).take 36 := by decide
  have hback : (bits burstPacket).drop 68 = (bits sentPacket).drop 68 := by decide
  rcases hj with hj | hj
  · rw [← List.getElem?_take_of_lt hj, hfront, List.getElem?_take_of_lt hj]
  · obtain ⟨i, rfl⟩ := Nat.exists_eq_add_of_le hj
    rw [← List.getElem?_drop, hback, List.getElem?_drop]

/-- Refutes O16: the burst of `burstPacket` leaves the CRC as it was. -/
theorem not_everyBurstOf32BitsDetected : ¬ Obligations.EveryBurstOf32BitsDetected := by
  intro h
  have hcrc : decodePacket burstPacket 13 = .fail .crcMismatch := by
    refine h sentPacket burstPacket 13 _ 36 decodePacket_sentPacket rfl (by decide) (fun j hj => ?_) fun j hj => ?_
    · refine bits_burstPacket j ?_
      simp only [List.length_cons, List.length_nil] at hj
      omega
    · exact bits_burstPacket j (by omega)
  rw [decodePacket_burstPacket] at hcrc
  cases hcrc

end Sys2Proof.Machine
end

section
/-!
The encoder (`41_encoder.md`): what an offer and each branch of a pull answer, the stream law of consecutive pulls, and the offset in
the frame's header; and the closing of source and queue.
-/

namespace Sys2Proof.Machine

/-! ## The source (R27, R163) -/

/-- The Control items at the front of a source are dropped on the way to its first payload. -/
theorem takePayload_controls_append {cs : List SrcItem} (hcs : ∀ c ∈ cs, c = .control) (q : List SrcItem) :
    takePayload (cs ++ q) = takePayload q := by
  induction cs with
  | nil => rfl
  | cons c cs ih =>
    obtain ⟨rfl, htail⟩ := List.forall_mem_cons.1 hcs
    exact ih htail

/-- A Control item is no part of the stream (R77). -/
theorem framesOf_controls_append (b : Build) (c : Cfg) (w : BitVec 4) {cs : List SrcItem} (hcs : ∀ x ∈ cs, x = .control)
    (q : List SrcItem) : framesOf b c w (cs ++ q) = framesOf b c w q := by
  induction cs with
  | nil => rfl
  | cons x cs ih =>
    obtain ⟨rfl, htail⟩ := List.forall_mem_cons.1 hcs
    exact ih htail

theorem framesOf_controls (b : Build) (c : Cfg) (w : BitVec 4) {cs : List SrcItem} (hcs : ∀ x ∈ cs, x = .control) :
    framesOf b c w cs = [] := by
  rw [← List.append_nil cs, framesOf_controls_append b c w hcs, framesOf]

/-! ## The branches of a pull (R163) -/

theorem pull_closed {s : State} (cap : BitVec 24) (hc : s.tx.encClosed = true) :
    s.pull cap = s.complete .sourceClosed (.pull 0 true []) :=
  if_pos hc

theorem pull_draining {s : State} (cap : BitVec 24) (hc : s.tx.encClosed = false) (hr : s.tx.resid ≠ []) :
    s.pull cap = s.pullBytes cap := by
  rw [State.pull, if_neg (Bool.eq_false_iff.1 hc), if_neg hr]

theorem pull_framing {s : State} {p : List Byte} {rest : List SrcItem} (cap : BitVec 24) (hc : s.tx.encClosed = false)
    (hr : s.tx.resid = []) (hq : takePayload s.tx.srcQ = some (p, rest)) :
    s.pull cap = (s.frameMessage p rest).pullBytes cap := by
  rw [State.pull, if_neg (Bool.eq_false_iff.1 hc), if_pos hr, hq]

theorem pull_ending {s : State} (cap : BitVec 24) (hc : s.tx.encClosed = false) (hr : s.tx.resid = [])
    (hq : takePayload s.tx.srcQ = none) :
    s.pull cap = (s.setTx { s.tx with srcQ := [], encClosed := true }).complete .sourceClosed (.pull 0 true []) := by
  rw [State.pull, if_neg (Bool.eq_false_iff.1 hc), if_pos hr, hq]

/-! ## The stream (R167) -/

/-- From `s` to `t` one completed pull has returned `data`: these are the next bytes of the stream, and a closed encoder has none
left if it had none left before. -/
structure Delivers (s t : State) (data : List Byte) : Prop where
  reply : ∃ code k done,
    t.env.replies = s.env.replies ++ [{ agent := s.env.agent, requester := none, code := code, result := .pull k done data }]
  stream : data ++ t.outgoing = s.outgoing
  closed : (s.tx.encClosed = true → s.outgoing = []) → t.tx.encClosed = true → t.outgoing = []

/-- The bytes that leave and those that remain are the frame's (R61). -/
theorem pullBytes_delivers {s : State} (cap : BitVec 24) (hc : s.tx.encClosed = false) :
    Delivers s (s.pullBytes cap) (s.tx.resid.take (min cap.toNat s.tx.resid.length)) where
  reply := ⟨_, _, _, rfl⟩
  stream := by
    show _ ++ ((s.tx.advance _).resid ++ framesOf s.build s.cfg s.tx.woff s.tx.srcQ) = _
    rw [Tx.resid_advance, ← List.append_assoc, List.take_append_drop, State.outgoing]
  closed _ ht := absurd (hc.symm.trans ht) Bool.false_ne_true

/-- Framing the next payload moves its frame from the source to the buffer: the stream is the same (R77, R164). -/
theorem frameMessage_outgoing {s : State} {p : List Byte} {rest : List SrcItem} (hr : s.tx.resid = [])
    (hq : takePayload s.tx.srcQ = some (p, rest)) : (s.frameMessage p rest).outgoing = s.outgoing := by
  obtain ⟨cs, hcs, hsrc⟩ := takePayload_eq_some hq
  obtain ⟨hresid, hrest, -, -, -, hwoff⟩ := frameMessage_tx s p rest
  rw [State.outgoing, State.outgoing, hresid, hrest, hwoff, hr, hsrc, framesOf_controls_append _ _ _ hcs]
  rfl

/-- Every pull delivers the next bytes of the stream, in each branch of R163. -/
theorem pull_delivers (s : State) (cap : BitVec 24) : ∃ data, Delivers s (s.pull cap) data := by
  cases hc : s.tx.encClosed with
  | true =>
    rw [pull_closed cap hc]
    exact ⟨[], ⟨_, _, _, rfl⟩, rfl, fun h _ => h hc⟩
  | false =>
    by_cases hr : s.tx.resid = []
    · cases hq : takePayload s.tx.srcQ with
      | none =>
        have hs : s.outgoing = [] := by
          rw [State.outgoing, hr, framesOf_controls _ _ _ (takePayload_eq_none.1 hq), List.append_nil]
        rw [pull_ending cap hc hr hq]
        have ht : ((s.setTx { s.tx with srcQ := [], encClosed := true }).complete .sourceClosed (.pull 0 true [])).outgoing = [] := by
          show s.tx.resid ++ [] = []
          rw [hr, List.append_nil]
        exact ⟨[], ⟨_, _, _, rfl⟩, ht.trans hs.symm, fun _ _ => ht⟩
      | some next =>
        obtain ⟨p, rest⟩ := next
        rw [pull_framing cap hc hr hq]
        obtain ⟨hreply, hstream, hclosed⟩ := pullBytes_delivers (s := s.frameMessage p rest) cap hc
        rw [frameMessage_outgoing hr hq] at hstream hclosed
        exact ⟨_, hreply, hstream, hclosed⟩
    · rw [pull_draining cap hc hr]
      exact ⟨_, pullBytes_delivers cap hc⟩

/-- A pull that answers a next state was carried out, or it blocked and returned nothing. -/
theorem exec_txPull_next {s t : State} {cap : BitVec 24} (h : exec (.txPull cap) s = .next t) :
    t = s.accept.pull cap ∨ t.env.replies = [] := by
  obtain ⟨-, -, ⟨-, heff⟩ | ⟨-, rfl⟩⟩ := exec_next h
  · cases heff
    exact .inl rfl
  · exact .inr rfl

/-- The first of a list of completed pulls delivers its bytes, and the others deliver theirs from there. -/
theorem pullAll_cons {s t : State} {cap : BitVec 24} {caps : List (BitVec 24)} {data : List Byte}
    (h : pullAll (cap :: caps) s = some (data, t)) :
    ∃ u first more, Delivers (s.issuedBy .mod).accept u first ∧ pullAll caps u = some (more, t) ∧ data = first ++ more := by
  rw [pullAll] at h
  split at h
  next u hu =>
    split at h
    next first hreplies =>
      obtain ⟨⟨more, t'⟩, hmore, heq⟩ := Option.map_eq_some_iff.1 h
      obtain ⟨rfl, rfl⟩ := Prod.mk.inj heq
      obtain rfl | hnone := exec_txPull_next hu
      · obtain ⟨data, hd⟩ := pull_delivers (s.issuedBy .mod).accept cap
        obtain ⟨code, k, done, hreply⟩ := hd.reply
        cases hreplies.symm.trans hreply
        exact ⟨_, _, more, hd, hmore, rfl⟩
      · cases hnone.symm.trans hreplies
    next => cases h
  next => cases h

/-- Consecutive pulls deliver consecutive bytes of the stream (R167). -/
theorem pullAll_stream {s t : State} {caps : List (BitVec 24)} {data : List Byte} (h : pullAll caps s = some (data, t)) :
    data ++ t.outgoing = s.outgoing ∧
      ((s.tx.encClosed = true → s.outgoing = []) → t.tx.encClosed = true → t.outgoing = []) := by
  induction caps generalizing s data with
  | nil =>
    cases h
    exact ⟨rfl, id⟩
  | cons cap caps ih =>
    obtain ⟨u, first, more, hd, hmore, rfl⟩ := pullAll_cons h
    obtain ⟨hstream, hclosed⟩ := ih hmore
    refine ⟨?_, fun hs => hclosed (hd.closed hs)⟩
    rw [List.append_assoc, hstream]
    exact hd.stream

theorem TxInv.outgoing_of_closed {s : State} (h : TxInv s) (hc : s.tx.encClosed = true) : s.outgoing = [] := by
  obtain ⟨hresid, hsrc, -⟩ := h.closed hc
  rw [State.outgoing, hresid, hsrc, framesOf, List.append_nil]

/-- Settles O33: `pullAll_stream`, and the invariant says that an encoder closed from the start had nothing left. -/
theorem streamLaw : Obligations.StreamLaw := by
  intro s t caps data h
  obtain ⟨hstream, hclosed⟩ := pullAll_stream h
  refine ⟨hstream, fun hs ht => ?_⟩
  rw [← hstream, hclosed hs.outgoing_of_closed ht, List.append_nil]

/-! ## The answers of a pull -/

/-- A presentable pull that finds the encoder closed, a frame, a payload or the source closed is carried out. -/
theorem exec_txPull {s : State} {cap : BitVec 24} (h : Presentable (.txPull cap) s) (hm : s.mode = .run)
    (he : s.tx.encClosed = true ∨ s.tx.resid ≠ [] ∨ (takePayload s.tx.srcQ).isSome = true ∨ s.tx.srcClosed = true) :
    exec (.txPull cap) s = .next (s.accept.pull cap) := by
  refine exec_eq_effect h rfl ?_
  simpa [State.enabled, hm, or_assoc] using he

/-- On a frame just loaded the cursor moves from 0 (R61). -/
theorem Tx.advance_of_start {t : Tx} (h : t.encRd = 0) (k : Nat) : t.advance k = { t with encRd := k } := by
  rw [Tx.advance, h, Nat.zero_add]

/-- Settles O31: the pull finds the payload behind the Control items, and its frame is then the whole of `resid`. -/
theorem pullFramesTheNextMessage : Obligations.PullFramesTheNextMessage := by
  intro s cap cs rest p h hm hc hr hcs hsrc frame k
  have hq : takePayload s.tx.srcQ = some (p, rest) := by
    rw [hsrc, takePayload_controls_append hcs, takePayload]
  have hresid : (s.accept.frameMessage p rest).tx.resid = frame := (frameMessage_tx s.accept p rest).1
  rw [exec_txPull h hm (.inr (.inr (.inl (Option.isSome_of_eq_some hq)))), pull_framing (s := s.accept) cap hc hr hq,
    State.pullBytes, hresid, Tx.advance_of_start rfl]
  rfl

/-- Settles O32: one branch of the pull for each case. -/
theorem pullDrainsThenSignalsTheEnd : Obligations.PullDrainsThenSignalsTheEnd := by
  refine ⟨fun s cap h hm hc hr => ⟨?_, Tx.resid_advance s.tx _⟩, fun s cap h hm => ⟨fun hc => ?_, fun hc hr hq ho => ?_⟩⟩
  · rw [exec_txPull h hm (.inr (.inl hr)), pull_draining (s := s.accept) cap hc hr]
    rfl
  · rw [exec_txPull h hm (.inl hc), pull_closed (s := s.accept) cap hc, accept_complete]
  · rw [exec_txPull h hm (.inr (.inr (.inr ho))), pull_ending (s := s.accept) cap hc hr (takePayload_eq_none.2 hq)]
    rfl

/-! ## The offset of a frame (R93, R164) -/

/-- The low four bits of the header's first byte, first of the packet's bits but the version's, are OFFSET (R93). -/
theorem bits_packetBytes_offset (off : BitVec 4) (pad : Nat) (payload : List Byte) :
    ((bits (packetBytes off pad payload)).drop 4).take 4 = [off.getLsbD 3, off.getLsbD 2, off.getLsbD 1, off.getLsbD 0] := by
  have hbyte : (byteBits (Config.frameVersion ++ off)).drop 4 = [off.getLsbD 3, off.getLsbD 2, off.getLsbD 1, off.getLsbD 0] := by
    revert off
    decide
  rw [packetBytes, headerBytes, List.cons_append, List.cons_append, bits_cons, List.drop_append_of_le_length (by simp), hbyte]
  rfl

/-- The OFFSET field stands behind the access code and the version (R91, R93). -/
theorem encodeFrame_offset {alignSamples sps bps : Nat} (payload : List Byte) (ac : Bits) (off : BitVec 4)
    (ha : 1 ≤ alignSamples) (hb : 1 ≤ bps) :
    ((bits (encodeFrame alignSamples payload sps bps ac off)).drop (ac.length + 4)).take 4 =
      [off.getLsbD 3, off.getLsbD 2, off.getLsbD 1, off.getLsbD 0] := by
  rw [bits_encodeFrame payload ac off ha hb]
  generalize padBits (alignModulus alignSamples sps bps) (coreBits ac.length payload.length) = pad
  have hlen : (bits (packetBytes off pad payload)).length = 64 + 8 * payload.length := by
    rw [bits_length, packetBytes_length]
    omega
  have hroom : 4 ≤ ((bits (packetBytes off pad payload)).drop 4).length := by
    rw [List.length_drop]
    omega
  rw [List.append_assoc, ← List.drop_drop, List.drop_left, List.drop_append_of_le_length (by omega),
    List.take_append_of_le_length hroom, bits_packetBytes_offset]

/-- Settles O34: the invariant gives the offset as the low four bits of the frame count. -/
theorem offsetRotation : Obligations.OffsetRotation := by
  intro s p hs hm _ off frame
  obtain ⟨-, -, -, ⟨halign, -⟩, -⟩ := hs.build
  obtain ⟨-, hn, -, -⟩ := hs.cfg.committed hm
  have hoff : s.tx.woff = off := hs.tx.offset
  refine ⟨hoff, ?_⟩
  rw [hn, ← hoff]
  exact encodeFrame_offset p s.cfg.ac s.tx.woff halign hs.cfg.bps.1

/-! ## Offers and closing (R160 to R162, R204) -/

/-- What an offer does to an open source and to a closed one (R160). -/
theorem accept_offer (s : State) (item : SrcItem) :
    (s.tx.srcClosed = false → s.accept.offer item =
      { s with tx := { s.tx with srcQ := s.tx.srcQ ++ [item] }, env := s.env.done .done .none }) ∧
    (s.tx.srcClosed = true → s.accept.offer item = { s with env := s.env.done .sourceClosed .none }) := by
  constructor
  · intro ho
    exact if_neg (Bool.eq_false_iff.1 ho)
  · exact fun ho => if_pos ho

/-- Settles O29: in mode RUN both operations are the offer of their item. -/
theorem messageOffered : Obligations.MessageOffered := by
  intro s i item hi h hm
  have hexec : exec i s = .next (s.accept.offer item) := by
    obtain ⟨rfl, rfl⟩ | ⟨p, rfl, rfl⟩ := hi
    · exact exec_eq_effect h rfl (beq_iff_eq.2 hm)
    · exact exec_eq_effect h rfl (beq_iff_eq.2 hm)
  obtain ⟨hopen, hclosed⟩ := accept_offer s item
  exact ⟨fun ho => by rw [hexec, hopen ho], fun ho => by rw [hexec, hclosed ho]⟩

/-- Settles O30: both are enabled in every mode (R267). -/
theorem sourceAndQueueClose : Obligations.SourceAndQueueClose :=
  fun _ => ⟨fun h => exec_eq_effect h rfl rfl, fun h => exec_eq_effect h rfl rfl⟩

end Sys2Proof.Machine
end

section
/-!
The Sync unit (`42_sync.md`): the match test as a Hamming distance, what one bit does in each state, and the delimiting of an encoded
frame.
-/

namespace Sys2Proof.Machine

/-! ## Bits shifted into a register (R182) -/

/-- A bit enters a register at its lower end (R182: `sr`, `hdr` and `acc`). -/
def shiftBit {w : Nat} (v : BitVec w) (b : Bool) : BitVec w := (v <<< 1) ||| (BitVec.ofBool b).setWidth w

/-- Bits enter a register one after another. -/
def shiftBits {w : Nat} (v : BitVec w) (bs : Bits) : BitVec w := bs.foldl shiftBit v

theorem shiftBit_eq {w : Nat} (v : BitVec w) (b : Bool) : shiftBit v b = (v <<< 1) ||| BitVec.ofNat w b.toNat := by
  have hbit : (BitVec.ofBool b).setWidth w = BitVec.ofNat w b.toNat := BitVec.eq_of_toNat_eq (by cases b <;> simp)
  rw [shiftBit, hbit]

@[simp] theorem shiftBits_concat {w : Nat} (v : BitVec w) (bs : Bits) (b : Bool) :
    shiftBits v (bs ++ [b]) = shiftBit (shiftBits v bs) b := by
  simp [shiftBits]

/-- The committed value of an access code is its bits shifted into 0 (R24). -/
theorem accessCodeValue_eq_shiftBits (code : Bits) : accessCodeValue code = shiftBits 0 code := rfl

/-- What the bits shifted in leave at the lower end does not depend on what stood there. -/
theorem shiftBits_getLsbD_congr {w : Nat} (u v : BitVec w) (bs : Bits) {j : Nat} (hj : j < bs.length) :
    (shiftBits u bs).getLsbD j = (shiftBits v bs).getLsbD j := by
  induction bs using List.reverseRecOn generalizing j with
  | nil => simp at hj
  | append_singleton bs b ih =>
    rw [shiftBits_concat, shiftBits_concat]
    cases j with
    | zero => simp [shiftBit]
    | succ j =>
      have hlow : (shiftBits u bs).getLsbD j = (shiftBits v bs).getLsbD j := ih (by simpa using hj)
      simp [shiftBit, hlow, -BitVec.getLsbD_eq_getElem]

theorem toNat_shiftBit {w : Nat} (v : BitVec w) (b : Bool) : (shiftBit v b).toNat = (2 * v.toNat + b.toNat) % 2 ^ w := by
  have hb : b.toNat < 2 ^ 1 := b.toNat_lt
  rw [shiftBit_eq, BitVec.toNat_or, BitVec.toNat_shiftLeft, BitVec.toNat_ofNat, ← Nat.or_mod_two_pow,
    ← Nat.shiftLeft_add_eq_or_of_lt hb, Nat.shiftLeft_eq, Nat.mul_comm, Nat.pow_one]

/-- Bits shifted in count up a binary number modulo the register's range. -/
theorem toNat_shiftBits {w : Nat} (v : BitVec w) (bs : Bits) :
    (shiftBits v bs).toNat = bs.foldl (fun n b => 2 * n + b.toNat) v.toNat % 2 ^ w := by
  induction bs using List.reverseRecOn with
  | nil => exact (Nat.mod_eq_of_lt v.isLt).symm
  | append_singleton bs b ih =>
    rw [shiftBits_concat, toNat_shiftBit, ih, List.foldl_concat, Nat.add_mod, Nat.mul_mod_mod, ← Nat.add_mod]

/-- The number of a byte from its bits, most significant first. -/
theorem toNat_eq_bits (x : Byte) :
    x.toNat = 128 * (x.getLsbD 7).toNat + 64 * (x.getLsbD 6).toNat + 32 * (x.getLsbD 5).toNat + 16 * (x.getLsbD 4).toNat +
      8 * (x.getLsbD 3).toNat + 4 * (x.getLsbD 2).toNat + 2 * (x.getLsbD 1).toNat + (x.getLsbD 0).toNat := by
  revert x
  decide +kernel

/-- A byte's bits, most significant first, shift a register up by the byte (R66, R182). -/
theorem toNat_shiftBits_byteBits {w : Nat} (v : BitVec w) (x : Byte) :
    (shiftBits v (byteBits x)).toNat = (256 * v.toNat + x.toNat) % 2 ^ w := by
  rw [toNat_shiftBits, toNat_eq_bits x]
  simp only [byteBits, List.foldl_cons, List.foldl_nil]
  congr 1
  omega

theorem shiftBits_append {w : Nat} (v : BitVec w) (bs cs : Bits) : shiftBits v (bs ++ cs) = shiftBits (shiftBits v bs) cs :=
  List.foldl_append

/-- The eight bits of a byte make the byte, whatever stood in the register before (R182). -/
theorem shiftBits_byteBits (v x : Byte) : shiftBits v (byteBits x) = x := by
  refine BitVec.eq_of_toNat_eq ?_
  rw [toNat_shiftBits_byteBits]
  omega

/-- The bits of four bytes make their 32-bit word, whatever stood in the register before (R182). -/
theorem shiftBits_bits_four (v : Word) (a b c d : Byte) : shiftBits v (bits [a, b, c, d]) = a ++ b ++ c ++ d := by
  have hbytes : shiftBits v (bits [a, b, c, d]) =
      shiftBits (shiftBits (shiftBits (shiftBits v (byteBits a)) (byteBits b)) (byteBits c)) (byteBits d) := by
    simp only [bits_cons, bits_nil, List.append_nil, shiftBits_append]
  refine BitVec.eq_of_toNat_eq (.trans ?_ (toNat_append_four a b c d).symm)
  simp only [hbytes, toNat_shiftBits_byteBits]
  omega

/-! ## The match test (R180) -/

/-- Under the mask only the `n` lower bits count (R180). -/
theorem popcount_and_accessCodeMask (v : BitVec 64) {n : Nat} (hn : n ≤ 64) :
    popcount (v &&& accessCodeMask n) = (List.range n).countP v.getLsbD := by
  have hbit (j : Nat) : (v &&& accessCodeMask n).getLsbD j = (v.getLsbD j && decide (j < n)) := by
    by_cases hj : j < 64
    · rw [BitVec.getLsbD_and, accessCodeMask_getLsbD n j hj]
    · simp [BitVec.getLsbD_of_ge _ j (Nat.not_lt.1 hj)]
  have hhigh : ((List.range (64 - n)).map (n + ·)).countP (v &&& accessCodeMask n).getLsbD = 0 := by
    simp [List.countP_eq_zero, hbit]
  have hsplit : List.range 64 = List.range n ++ (List.range (64 - n)).map (n + ·) := by
    rw [← List.range_add, Nat.add_sub_cancel' hn]
  rw [popcount, hsplit, List.countP_append, hhigh, Nat.add_zero]
  refine List.countP_congr fun j hj => ?_
  rw [hbit, decide_eq_true (List.mem_range.1 hj), Bool.and_true]

/-- Positions counted from either end are the same positions. -/
theorem countP_range_reflect (n : Nat) (p : Nat → Bool) :
    (List.range n).countP p = (List.range n).countP fun i => p (n - 1 - i) := by
  rw [← List.countP_reverse, List.range_eq_range', List.reverse_range', Nat.zero_add, ← List.range_eq_range', List.countP_map]
  rfl

/-- Position `i` of the code is bit `n - 1 - i` of its value (R24). -/
theorem accessCodeValue_getLsbD_position {code : Bits} (hl : code.length ≤ 64) {i : Nat} (hi : i < code.length) :
    (accessCodeValue code).getLsbD (code.length - 1 - i) = code[i] := by
  obtain ⟨-, -, hvalue⟩ := accessCodeValidationAndValue
  exact (hvalue code hl).1 i hi

/-- The match test is a bound on the number of positions in which the last `n` bits received differ from the code (R180). -/
theorem acMatch_iff_hamming {c : Cfg} {code : Bits} (sr : BitVec 64) (hl : code.length ≤ 64)
    (hv : c.acv = accessCodeValue code) (hk : c.mask = accessCodeMask code.length) :
    acMatch c sr = true ↔
      (List.range code.length).countP (fun i => code[i]? != some (sr.getLsbD (code.length - 1 - i))) ≤ c.threshold.toNat := by
  have hdist : (List.range code.length).countP (sr ^^^ c.acv).getLsbD =
      (List.range code.length).countP fun i => code[i]? != some (sr.getLsbD (code.length - 1 - i)) := by
    rw [countP_range_reflect]
    refine List.countP_congr fun i hi => ?_
    have hi : i < code.length := List.mem_range.1 hi
    rw [BitVec.getLsbD_xor, hv, accessCodeValue_getLsbD_position hl hi, List.getElem?_eq_getElem hi]
    cases code[i] <;> cases sr.getLsbD (code.length - 1 - i) <;> decide
  rw [acMatch, decide_eq_true_eq, hk, popcount_and_accessCodeMask _ hl, hdist]

/-- Settles O8: no more than `n` positions differ, so a threshold of `n` is met by every window. -/
theorem matchBoundsHammingDistance : Obligations.MatchBoundsHammingDistance := by
  intro c code sr hl hv hk
  have hiff := acMatch_iff_hamming sr hl hv hk
  refine ⟨hiff, fun ht => hiff.2 (le_trans List.countP_le_length ?_)⟩
  rwa [List.length_range]

/-- The code itself matches, whatever stood in the register before its bits (R180, R182). -/
theorem acMatch_accessCode {c : Cfg} {code : Bits} (sr : BitVec 64) (hl : code.length ≤ 64)
    (hv : c.acv = accessCodeValue code) (hk : c.mask = accessCodeMask code.length) : acMatch c (shiftBits sr code) = true := by
  refine (acMatch_iff_hamming _ hl hv hk).2 (le_of_eq_of_le (List.countP_eq_zero.2 fun i hi => ?_) (Nat.zero_le _))
  have hi : i < code.length := List.mem_range.1 hi
  rw [shiftBits_getLsbD_congr sr 0 code (by omega), ← accessCodeValue_eq_shiftBits, accessCodeValue_getLsbD_position hl hi,
    List.getElem?_eq_getElem hi, bne_self_eq_false]
  exact Bool.false_ne_true

/-! ## One bit (R181, R182, R186) -/

theorem State.setSync_setSync (s : State) (y z : Sync) : (s.setSync y).setSync z = s.setSync z := rfl

theorem tryEnqueue_closed {s : State} (hc : s.queue.closed = true) :
    s.tryEnqueue = s.setSync { s.sync with cap := [], state := .stopped } :=
  if_pos hc

theorem tryEnqueue_room {s : State} (hc : s.queue.closed = false) (hr : s.queue.q.length < s.build.queueCap) :
    s.tryEnqueue =
      (s.setQueue (s.queue.enqueue { bytes := s.sync.cap, length := BitVec.ofNat 24 s.sync.need.toNat })).setSync
        { s.sync with cap := [], fill := 0, state := .search } := by
  rw [State.tryEnqueue, if_neg (Bool.eq_false_iff.1 hc), if_pos hr, BitVec.ofNat_toNat]

theorem tryEnqueue_full {s : State} (hc : s.queue.closed = false) (hr : s.build.queueCap ≤ s.queue.q.length) :
    s.tryEnqueue = s.setSync { s.sync with state := .push } := by
  rw [State.tryEnqueue, if_neg (Bool.eq_false_iff.1 hc), if_neg (Nat.not_lt.2 hr)]

/-- The enqueue does not depend on the environment. -/
theorem tryEnqueue_setEnv (s : State) (e : Env) : (s.setEnv e).tryEnqueue = s.tryEnqueue.setEnv e := by
  unfold State.tryEnqueue
  rw [apply_ite (State.setEnv · e), apply_ite (State.setEnv · e)]
  rfl

/-- A bit in state Search (R182): the whole next unit, the counter read as a number. -/
theorem searchBit_eq (y : Sync) (c : Cfg) (b : Bool) :
    y.searchBit c b =
      if c.n.toNat ≤ min (y.fill.toNat + 1) 64 ∧ acMatch c (shiftBit y.sr b) = true then
        { y with
          sr := shiftBit y.sr b, fill := BitVec.ofNat 7 (min (y.fill.toNat + 1) 64), hdr := 0, hcnt := 0, state := .header }
      else { y with sr := shiftBit y.sr b, fill := BitVec.ofNat 7 (min (y.fill.toNat + 1) 64) } := by
  have hfill : (BitVec.ofNat 7 (min (y.fill.toNat + 1) 64)).toNat = min (y.fill.toNat + 1) 64 :=
    (BitVec.toNat_ofNat _ _).trans (Nat.mod_eq_of_lt (by omega))
  simp only [Sync.searchBit, hfill]
  rfl

/-- A bit in state Header (R182, R184): the whole next unit, VER and LENGTH read as numbers. -/
theorem headerBit_eq (y : Sync) (b : Bool) :
    y.headerBit b =
      if y.hcnt + 1 ≠ 32 then { y with hdr := shiftBit y.hdr b, hcnt := y.hcnt + 1 }
      else if (shiftBit y.hdr b).toNat / 268435456 ≠ 1 then
        { y with hdr := shiftBit y.hdr b, hcnt := 32, fill := 0, state := .search }
      else
        { y with
          hdr := shiftBit y.hdr b, hcnt := 32
          cap := be32 (shiftBit y.hdr b)
          need := BitVec.ofNat 17 (8 + (shiftBit y.hdr b).toNat % 65536), acc := 0, bcnt := 0, state := .payload } := by
  have hver (v : Word) : v.extractLsb' 28 4 = Config.frameVersion ↔ v.toNat / 268435456 = 1 := by
    have hlt := v.isLt
    rw [← BitVec.toNat_inj, BitVec.extractLsb'_toNat, Nat.shiftRight_eq_div_pow]
    show v.toNat / 268435456 % 16 = 1 ↔ _
    omega
  have hneed (v : Word) : 8 + (v.extractLsb' 0 16).setWidth 17 = BitVec.ofNat 17 (8 + v.toNat % 65536) := by
    refine BitVec.eq_of_toNat_eq ?_
    simp
  by_cases h32 : y.hcnt + 1 = 32
  · rw [if_neg (not_not.2 h32), ← hneed]
    simp only [Sync.headerBit, if_pos h32, ne_eq, ← hver]
    rw [h32]
    rfl
  · rw [if_pos h32]
    exact if_neg h32

/-- The bytes `xs` have been added to the capture, and no bit of a next one has come (R182). -/
def Sync.captured (y : Sync) (xs : List Byte) : Sync := { y with cap := y.cap ++ xs, acc := 0, bcnt := 0 }

/-- A bit inside a byte is kept (R182). -/
theorem payloadBit_inner {s : State} (b : Bool) (h : s.sync.bcnt + 1 ≠ 8) :
    s.payloadBit b = s.setSync { s.sync with acc := shiftBit s.sync.acc b, bcnt := s.sync.bcnt + 1 } :=
  if_neg h

/-- The last bit of a byte adds it to the capture, which is handed over once it is complete (R182). -/
theorem payloadBit_last {s : State} (b : Bool) (h : s.sync.bcnt + 1 = 8) :
    s.payloadBit b =
      if s.sync.cap.length + 1 = s.sync.need.toNat then (s.setSync (s.sync.captured [shiftBit s.sync.acc b])).tryEnqueue
      else s.setSync (s.sync.captured [shiftBit s.sync.acc b]) := by
  rw [State.payloadBit]
  simp only [if_pos h, State.setSync_sync, List.length_append, List.length_singleton]
  rfl

theorem payloadBit_setEnv (s : State) (e : Env) (b : Bool) : (s.setEnv e).payloadBit b = (s.payloadBit b).setEnv e := by
  by_cases h : s.sync.bcnt + 1 = 8
  · rw [payloadBit_last b h, payloadBit_last (s := s.setEnv e) b h]
    by_cases hn : s.sync.cap.length + 1 = s.sync.need.toNat
    · rw [if_pos hn, if_pos (show (s.setEnv e).sync.cap.length + 1 = (s.setEnv e).sync.need.toNat from hn)]
      exact tryEnqueue_setEnv (s.setSync _) e
    · rw [if_neg hn, if_neg (show ¬(s.setEnv e).sync.cap.length + 1 = (s.setEnv e).sync.need.toNat from hn)]
      rfl
  · rw [payloadBit_inner b h, payloadBit_inner (s := s.setEnv e) b h]
    rfl

theorem receiveBit_discarded {s : State} (b : Bool) (h : s.cfg.extSink = true ∨ s.sync.state = .stopped) :
    s.receiveBit b = s := by
  unfold State.receiveBit
  split
  next => rfl
  next hx => rw [h.resolve_left hx]

theorem receiveBit_search {s : State} (b : Bool) (hx : s.cfg.extSink = false) (hs : s.sync.state = .search) :
    s.receiveBit b = s.setSync (s.sync.searchBit s.cfg b) := by
  rw [State.receiveBit, if_neg (Bool.eq_false_iff.1 hx), hs]

theorem receiveBit_header {s : State} (b : Bool) (hx : s.cfg.extSink = false) (hs : s.sync.state = .header) :
    s.receiveBit b = s.setSync (s.sync.headerBit b) := by
  rw [State.receiveBit, if_neg (Bool.eq_false_iff.1 hx), hs]

theorem receiveBit_payload {s : State} (b : Bool) (hx : s.cfg.extSink = false) (hs : s.sync.state = .payload) :
    s.receiveBit b = s.payloadBit b := by
  rw [State.receiveBit, if_neg (Bool.eq_false_iff.1 hx), hs]

/-- What a bit does does not depend on the environment. -/
theorem receiveBit_setEnv (s : State) (e : Env) (b : Bool) : (s.setEnv e).receiveBit b = (s.receiveBit b).setEnv e := by
  cases hx : s.cfg.extSink with
  | true => rw [receiveBit_discarded b (.inl hx), receiveBit_discarded (s := s.setEnv e) b (.inl hx)]
  | false =>
    simp only [State.receiveBit, State.setEnv_cfg, State.setEnv_sync, hx, Bool.false_eq_true, if_false]
    cases s.sync.state
    case payload => exact payloadBit_setEnv s e b
    all_goals rfl

theorem enabled_rxBit_of_run {s : State} (b : Bool) (hm : s.mode = .run) (hp : s.sync.state ≠ .push) :
    s.enabled (.rxBit b) = true := by
  simp [State.enabled, hm, hp]

/-- An enabled bit is taken up and completes with `Done` (R182). -/
theorem exec_rxBit {s : State} {b : Bool} (h : Presentable (.rxBit b) s) (he : s.enabled (.rxBit b) = true) :
    exec (.rxBit b) s = .next ((s.receiveBit b).setEnv (s.env.done .done .none)) := by
  rw [exec_eq_effect h rfl he]
  show Host.Outcome.next (((s.setEnv (s.env.answered [])).receiveBit b).complete .done .none) = _
  rw [receiveBit_setEnv]
  rfl

/-- Settles O35: the discarded bit, and the equation of the Search step. -/
theorem bitDiscardedOrSearched : Obligations.BitDiscardedOrSearched := by
  refine ⟨fun s b h hm hp hd => ?_, fun s b h hm hx hs => ?_⟩
  · rw [Answers, exec_rxBit h (enabled_rxBit_of_run b hm hp), receiveBit_discarded b hd]
    rfl
  · have hp : s.sync.state ≠ .push := by simp [hs]
    rw [exec_rxBit h (enabled_rxBit_of_run b hm hp), receiveBit_search b hx hs, searchBit_eq, shiftBit_eq]
    simp only [acMatch, decide_eq_true_eq]
    rfl

/-- Settles O36: the equation of the Header step. -/
theorem bitInHeader : Obligations.BitInHeader := by
  intro s b h hm hx hs hdr
  have hp : s.sync.state ≠ .push := by simp [hs]
  rw [exec_rxBit h (enabled_rxBit_of_run b hm hp), receiveBit_header b hx hs, headerBit_eq, shiftBit_eq]
  rfl

/-- Settles O37: inside a byte, at the end of one, and the three outcomes of the enqueue. -/
theorem bitInPayload : Obligations.BitInPayload := by
  intro s b h hm hx hs acc cap env
  have hp : s.sync.state ≠ .push := by simp [hs]
  have hexec := exec_rxBit h (enabled_rxBit_of_run b hm hp)
  have hacc : shiftBit s.sync.acc b = acc := shiftBit_eq s.sync.acc b
  have hcap : cap.length = s.sync.cap.length + 1 := List.length_append
  rw [receiveBit_payload b hx hs] at hexec
  refine ⟨fun h8 => ?_, fun h8 hn => ?_, fun h8 hn => ?_⟩
  · rw [hexec, payloadBit_inner b h8, hacc]
    rfl
  · rw [hexec, payloadBit_last b h8, if_neg (hcap ▸ hn), hacc]
    rfl
  · rw [payloadBit_last b h8, if_pos (hcap ▸ hn), hacc] at hexec
    refine ⟨fun hc => ?_, fun hc hr => ?_, fun hc hr => ?_⟩
    · rw [hexec, tryEnqueue_closed (s := s.setSync (s.sync.captured [acc])) hc]
      rfl
    · rw [hexec, tryEnqueue_room (s := s.setSync (s.sync.captured [acc])) hc hr]
      rfl
    · rw [hexec, tryEnqueue_full (s := s.setSync (s.sync.captured [acc])) hc hr]
      rfl

/-- Settles O38: the enabled retry is the enqueue, with its outcome for a closed queue and for one with room. -/
theorem pushRetriesTheEnqueue : Obligations.PushRetriesTheEnqueue := by
  intro s h hm hs
  have hexec (he : s.queue.q.length < s.build.queueCap ∨ s.queue.closed = true) :
      exec .syncPush s = .next (s.tryEnqueue.setEnv (s.env.done .done .none)) := by
    rw [exec_eq_effect h rfl (by simpa [State.enabled, hm, hs] using he)]
    show Host.Outcome.next ((s.setEnv (s.env.answered [])).tryEnqueue.complete .done .none) = _
    rw [tryEnqueue_setEnv]
    rfl
  refine ⟨fun hc => ?_, fun hc hr => ?_⟩
  · rw [hexec (.inr hc), tryEnqueue_closed hc]
    rfl
  · rw [hexec (.inl hr), tryEnqueue_room hc hr]
    rfl

/-! ## Runs of bits (R182, R188) -/

/-- The environment after the demodulator has presented a bit that was taken. -/
def Env.bitTaken (e : Env) : Env := { e with agent := .demod, again := false }.done .done .none

/-- With nothing outstanding, a bit the demodulator presents to a ready unit is received. -/
theorem presentBits_cons {s : State} {e : Env} {b : Bool} (bs : Bits) (hp : e.pending = []) (he : s.enabled (.rxBit b) = true) :
    presentBits (b :: bs) (s.setEnv e) = presentBits bs ((s.receiveBit b).setEnv e.bitTaken) := by
  have hfree : ∀ rq ∈ e.pending, portOf (.rxBit b) ≠ none → portOf rq.instr ≠ portOf (.rxBit b) :=
    fun rq hq => absurd (hp ▸ hq) List.not_mem_nil
  have hexec : exec (.rxBit b) ((s.setEnv e).issuedBy .demod) = .next ((s.receiveBit b).setEnv e.bitTaken) := by
    rw [exec_rxBit (s := (s.setEnv e).issuedBy .demod) ⟨rfl, rfl, hfree⟩ (by rw [enabled_issuedBy, enabled_setEnv, he]),
      State.issuedBy, receiveBit_setEnv, receiveBit_setEnv]
    rfl
  rw [presentBits, List.map_cons, runOps, hexec]
  rfl

/-- The bits are received one after another, the unit ready for each of them, and lead from one state to another; what the run does to
the environment is left out. -/
inductive Receives : Bits → State → State → Prop where
  | nil (s : State) : Receives [] s s
  | cons {b : Bool} {bs : Bits} {s t : State} (he : s.enabled (.rxBit b) = true) (h : Receives bs (s.receiveBit b) t) :
    Receives (b :: bs) s t

theorem Receives.append {bs cs : Bits} {s t u : State} (h : Receives bs s t) (h' : Receives cs t u) : Receives (bs ++ cs) s u := by
  induction h with
  | nil => exact h'
  | cons he _ ih => exact .cons he (ih h')

theorem Receives.concat {bs : Bits} {b : Bool} {s t : State} (h : Receives bs s t) (he : t.enabled (.rxBit b) = true) :
    Receives (bs ++ [b]) s (t.receiveBit b) :=
  h.append (.cons he (.nil _))

/-- Presented by the demodulator with nothing outstanding, the bits lead to that state in some environment. -/
theorem Receives.presentBits {bs : Bits} {s t : State} (h : Receives bs s t) {e : Env} (hp : e.pending = []) :
    ∃ e', presentBits bs (s.setEnv e) = .next (t.setEnv e') := by
  induction h generalizing e with
  | nil s => exact ⟨e, rfl⟩
  | @cons b bs s t he _ ih =>
    rw [presentBits_cons bs hp he]
    exact ih hp

/-- A description `g` of the unit after each beginning of `bs` that every next bit keeps holds after all of `bs`. -/
theorem receives_of_prefixes {s : State} {bs : Bits} {g : Bits → Sync} (hm : s.mode = .run) (h0 : g [] = s.sync)
    (h : ∀ u b, u ++ [b] <+: bs → (g u).state ≠ .push ∧ (s.setSync (g u)).receiveBit b = s.setSync (g (u ++ [b]))) :
    Receives bs s (s.setSync (g bs)) := by
  induction bs using List.reverseRecOn with
  | nil =>
    rw [h0]
    exact .nil s
  | append_singleton bs b ih =>
    obtain ⟨hp, hstep⟩ := h bs b List.prefix_rfl
    rw [← hstep]
    exact (ih fun u c hc => h u c (hc.trans (List.prefix_append bs [b]))).concat (enabled_rxBit_of_run b hm hp)

/-! ## Search up to the match (R183) -/

/-- The unit in Search after the bits `u` without a match (R182). -/
def Sync.searched (y : Sync) (u : Bits) : Sync :=
  { y with sr := shiftBits y.sr u, fill := BitVec.ofNat 7 (min (y.fill.toNat + u.length) 64) }

theorem Sync.searched_fill (y : Sync) (u : Bits) : (y.searched u).fill.toNat = min (y.fill.toNat + u.length) 64 :=
  (BitVec.toNat_ofNat _ _).trans (Nat.mod_eq_of_lt (by omega))

theorem Sync.searched_nil {y : Sync} (hf : y.fill.toNat ≤ 64) : y.searched [] = y := by
  have hfill : (y.searched []).fill = y.fill := BitVec.eq_of_toNat_eq (by rw [Sync.searched_fill]; simpa using hf)
  calc y.searched [] = { y with fill := (y.searched []).fill } := rfl
    _ = y := by rw [hfill]

/-- One more bit in Search (R182). -/
theorem Sync.searched_searchBit (y : Sync) (c : Cfg) (u : Bits) (b : Bool) :
    (y.searched u).searchBit c b =
      if c.n.toNat ≤ min (y.fill.toNat + u.length + 1) 64 ∧ acMatch c (shiftBits y.sr (u ++ [b])) = true then
        { y.searched (u ++ [b]) with hdr := 0, hcnt := 0, state := .header }
      else y.searched (u ++ [b]) := by
  have hcount : min ((y.searched u).fill.toNat + 1) 64 = min (y.fill.toNat + u.length + 1) 64 := by
    rw [Sync.searched_fill]
    omega
  rw [searchBit_eq, hcount, shiftBits_concat]
  simp only [Sync.searched, shiftBits_concat, List.length_append, List.length_singleton, Nat.add_assoc]

theorem receiveBit_searched {s : State} (u : Bits) (b : Bool) (hx : s.cfg.extSink = false) (hs : s.sync.state = .search) :
    (s.setSync (s.sync.searched u)).receiveBit b = s.setSync ((s.sync.searched u).searchBit s.cfg b) :=
  receiveBit_search (s := s.setSync (s.sync.searched u)) b hx hs

/-- Bits no window of which matches leave the unit in Search (R183). -/
theorem receives_search {s : State} {bs : Bits} (hm : s.mode = .run) (hx : s.cfg.extSink = false) (hs : s.sync.state = .search)
    (hf : s.sync.fill.toNat ≤ 64)
    (hno : ∀ u, u ≠ [] → u <+: bs → s.cfg.n.toNat ≤ s.sync.fill.toNat + u.length →
      acMatch s.cfg (shiftBits s.sync.sr u) = false) :
    Receives bs s (s.setSync (s.sync.searched bs)) := by
  refine receives_of_prefixes hm (Sync.searched_nil hf) fun u b hu => ⟨hs.trans_ne (by decide), ?_⟩
  rw [receiveBit_searched u b hx hs, Sync.searched_searchBit, if_neg]
  rintro ⟨hle, hmatch⟩
  have hlen : (u ++ [b]).length = u.length + 1 := List.length_append
  have hmiss := hno (u ++ [b]) (List.append_ne_nil_of_right_ne_nil u (List.cons_ne_nil b [])) hu (by omega)
  exact absurd hmatch (Bool.eq_false_iff.1 hmiss)

/-- The access code, of which no earlier window matches, brings the unit from Search to the start of the header (R182, R183). -/
theorem receives_accessCode {s : State} (hs : Inv s) (hm : s.mode = .run) (hx : s.cfg.extSink = false)
    (hst : s.sync.state = .search)
    (hno : ∀ u, u ≠ [] → u <+: s.cfg.ac → u ≠ s.cfg.ac → s.cfg.n.toNat ≤ s.sync.fill.toNat + u.length →
      acMatch s.cfg (shiftBits s.sync.sr u) = false) :
    ∃ y, Receives s.cfg.ac s (s.setSync y) ∧ y.state = .header ∧ y.hcnt = 0 := by
  obtain ⟨⟨h1, h64⟩, hn, hv, hk⟩ := hs.cfg.committed hm
  have hmatch := acMatch_accessCode s.sync.sr h64 hv hk
  generalize s.cfg.ac = code at *
  obtain ⟨u, b, rfl⟩ := (List.eq_nil_or_concat' code).resolve_left (List.ne_nil_of_length_pos h1)
  have hlen : (u ++ [b]).length = u.length + 1 := List.length_append
  have hsearch : Receives u s (s.setSync (s.sync.searched u)) :=
    receives_search hm hx hst hs.sync.fill fun v hv0 hvu =>
      hno v hv0 (hvu.trans (List.prefix_append u [b])) fun h => by
        have hle := hvu.length_le
        rw [h, hlen] at hle
        omega
  have hlast := hsearch.concat (enabled_rxBit_of_run b hm (hst.trans_ne (by decide)))
  rw [receiveBit_searched u b hx hst, Sync.searched_searchBit, if_pos ⟨by omega, hmatch⟩] at hlast
  exact ⟨_, hlast, rfl, rfl⟩

/-! ## The header (R184) -/

/-- The unit in Header after the bits `u`, fewer than 32 (R182). -/
def Sync.headed (y : Sync) (u : Bits) : Sync := { y with hdr := shiftBits y.hdr u, hcnt := BitVec.ofNat 6 u.length }

theorem Sync.headed_nil {y : Sync} (h : y.hcnt = 0) : y.headed [] = y := by
  calc y.headed [] = { y with hcnt := 0 } := rfl
    _ = y := by rw [← h]

theorem Sync.headed_hcnt_add (y : Sync) (u : Bits) : (y.headed u).hcnt + 1 = BitVec.ofNat 6 (u.length + 1) :=
  (BitVec.ofNat_add _ _).symm

theorem receiveBit_headed {s : State} (u : Bits) (b : Bool) (hx : s.cfg.extSink = false) (hs : s.sync.state = .header) :
    (s.setSync (s.sync.headed u)).receiveBit b = s.setSync ((s.sync.headed u).headerBit b) :=
  receiveBit_header (s := s.setSync (s.sync.headed u)) b hx hs

/-- Fewer than 32 bits are only collected (R182). -/
theorem receives_headerBits {s : State} {bs : Bits} (hm : s.mode = .run) (hx : s.cfg.extSink = false)
    (hs : s.sync.state = .header) (hh : s.sync.hcnt = 0) (hl : bs.length < 32) :
    Receives bs s (s.setSync (s.sync.headed bs)) := by
  refine receives_of_prefixes hm (Sync.headed_nil hh) fun u b hu => ⟨hs.trans_ne (by decide), ?_⟩
  have hle : u.length + 1 ≤ bs.length := by simpa using hu.length_le
  have h32 : (s.sync.headed u).hcnt + 1 ≠ 32 := by
    rw [Sync.headed_hcnt_add, ← BitVec.toNat_inj.ne, BitVec.toNat_ofNat]
    show _ ≠ 32
    omega
  rw [receiveBit_headed u b hx hs, headerBit_eq, if_pos h32, Sync.headed_hcnt_add]
  simp only [Sync.headed, shiftBits_concat, List.length_append, List.length_singleton]

/-- Four header bytes of this version start the capture, with them as its first bytes (R182, R184). -/
theorem receives_header {s : State} {a b c d : Byte} (hm : s.mode = .run) (hx : s.cfg.extSink = false)
    (hs : s.sync.state = .header) (hh : s.sync.hcnt = 0) (hv : a.toNat / 16 = 1) :
    ∃ y, Receives (bits [a, b, c, d]) s (s.setSync y) ∧ y.state = .payload ∧ y.acc = 0 ∧ y.bcnt = 0 ∧ y.cap = [a, b, c, d] ∧
      y.need.toNat = 8 + 256 * c.toNat + d.toNat := by
  have hword := shiftBits_bits_four s.sync.hdr a b c d
  have hnat := toNat_append_four a b c d
  have hlen : (bits [a, b, c, d]).length = 32 := bits_length _
  obtain ⟨u, z, huz⟩ := (List.eq_nil_or_concat' (bits [a, b, c, d])).resolve_left (List.ne_nil_of_length_pos (by omega))
  rw [huz, shiftBits_concat] at hword
  have hu : u.length = 31 := by simpa [huz] using hlen
  have hlast := (receives_headerBits hm hx hs hh (bs := u) (by omega)).concat (b := z)
    (enabled_rxBit_of_run z hm (hs.trans_ne (by decide)))
  have h32 : (s.sync.headed u).hcnt + 1 = 32 := by rw [Sync.headed_hcnt_add, hu]; rfl
  have hver : ¬BitVec.toNat (w := 32) (a ++ b ++ c ++ d) / 268435456 ≠ 1 := by omega
  rw [← huz, receiveBit_headed u z hx hs, headerBit_eq, if_neg (not_not.2 h32),
    show shiftBit (s.sync.headed u).hdr z = _ from hword, if_neg hver, be32_append] at hlast
  refine ⟨_, hlast, rfl, rfl, rfl, rfl, ?_⟩
  rw [BitVec.toNat_ofNat]
  omega

/-! ## The capture (R185) -/

/-- The unit in Payload after the bits `u` of a byte, fewer than 8 (R182). -/
def Sync.gathered (y : Sync) (u : Bits) : Sync := { y with acc := shiftBits y.acc u, bcnt := BitVec.ofNat 4 u.length }

theorem Sync.gathered_nil {y : Sync} (h : y.bcnt = 0) : y.gathered [] = y := by
  calc y.gathered [] = { y with bcnt := 0 } := rfl
    _ = y := by rw [← h]

theorem Sync.gathered_bcnt_add (y : Sync) (u : Bits) : (y.gathered u).bcnt + 1 = BitVec.ofNat 4 (u.length + 1) :=
  (BitVec.ofNat_add _ _).symm

theorem receiveBit_gathered {s : State} (u : Bits) (b : Bool) (hx : s.cfg.extSink = false) (hs : s.sync.state = .payload) :
    (s.setSync (s.sync.gathered u)).receiveBit b = (s.setSync (s.sync.gathered u)).payloadBit b :=
  receiveBit_payload (s := s.setSync (s.sync.gathered u)) b hx hs

/-- Fewer than 8 bits are only collected (R182). -/
theorem receives_payloadBits {s : State} {bs : Bits} (hm : s.mode = .run) (hx : s.cfg.extSink = false)
    (hs : s.sync.state = .payload) (hb : s.sync.bcnt = 0) (hl : bs.length < 8) :
    Receives bs s (s.setSync (s.sync.gathered bs)) := by
  refine receives_of_prefixes hm (Sync.gathered_nil hb) fun u b hu => ⟨hs.trans_ne (by decide), ?_⟩
  have hle : u.length + 1 ≤ bs.length := by simpa using hu.length_le
  have h8 : (s.sync.gathered u).bcnt + 1 ≠ 8 := by
    rw [Sync.gathered_bcnt_add, ← BitVec.toNat_inj.ne, BitVec.toNat_ofNat]
    show _ ≠ 8
    omega
  rw [receiveBit_gathered u b hx hs, payloadBit_inner (s := s.setSync (s.sync.gathered u)) b h8, State.setSync_sync,
    Sync.gathered_bcnt_add]
  simp only [Sync.gathered, shiftBits_concat, List.length_append, List.length_singleton]
  rfl

/-- Eight bits add a byte to the capture, which is handed over once it is complete (R182). -/
theorem receives_byte {s : State} (x : Byte) (hm : s.mode = .run) (hx : s.cfg.extSink = false)
    (hs : s.sync.state = .payload) (hb : s.sync.bcnt = 0) :
    Receives (byteBits x) s
      (if s.sync.cap.length + 1 = s.sync.need.toNat then (s.setSync (s.sync.captured [x])).tryEnqueue
       else s.setSync (s.sync.captured [x])) := by
  have hbyte := shiftBits_byteBits s.sync.acc x
  obtain ⟨u, z, huz⟩ := (List.eq_nil_or_concat' (byteBits x)).resolve_left (List.cons_ne_nil _ _)
  rw [huz, shiftBits_concat] at hbyte
  have hu : u.length = 7 := by simpa [huz] using byteBits_length x
  have hlast := (receives_payloadBits hm hx hs hb (bs := u) (by omega)).concat (b := z)
    (enabled_rxBit_of_run z hm (hs.trans_ne (by decide)))
  have h8 : (s.sync.gathered u).bcnt + 1 = 8 := by rw [Sync.gathered_bcnt_add, hu]; rfl
  rw [← huz, receiveBit_gathered u z hx hs, payloadBit_last (s := s.setSync (s.sync.gathered u)) z h8,
    show shiftBit (s.setSync (s.sync.gathered u)).sync.acc z = x from hbyte] at hlast
  exact hlast

theorem Sync.captured_nil {y : Sync} (ha : y.acc = 0) (hb : y.bcnt = 0) : y.captured [] = y := by
  calc y.captured [] = { y with acc := 0, bcnt := 0 } := by rw [Sync.captured, List.append_nil]
    _ = y := by rw [← ha, ← hb]

theorem Sync.captured_append (y : Sync) (xs ys : List Byte) : (y.captured xs).captured ys = y.captured (xs ++ ys) := by
  simp only [Sync.captured, List.append_assoc]

/-- Bytes that do not complete the capture are only collected (R182). -/
theorem receives_bytes {s : State} {xs : List Byte} (hm : s.mode = .run) (hx : s.cfg.extSink = false)
    (hs : s.sync.state = .payload) (ha : s.sync.acc = 0) (hb : s.sync.bcnt = 0)
    (hl : s.sync.cap.length + xs.length < s.sync.need.toNat) : Receives (bits xs) s (s.setSync (s.sync.captured xs)) := by
  induction xs using List.reverseRecOn with
  | nil =>
    rw [Sync.captured_nil ha hb]
    exact .nil s
  | append_singleton xs x ih =>
    rw [List.length_append, List.length_singleton] at hl
    have hbyte := receives_byte (s := s.setSync (s.sync.captured xs)) x hm hx hs rfl
    have hlen : (s.sync.captured xs).cap.length = s.sync.cap.length + xs.length := List.length_append
    rw [if_neg (by rw [State.setSync_sync, hlen]; show _ ≠ s.sync.need.toNat; omega), State.setSync_sync,
      Sync.captured_append] at hbyte
    rw [bits_append, bits_cons, bits_nil, List.append_nil]
    exact (ih (by omega)).append hbyte

/-- The bytes that complete the capture hand it to an open queue with room, and the unit is back in Search (R181, R185). -/
theorem receives_capture {s : State} {xs : List Byte} (hm : s.mode = .run) (hx : s.cfg.extSink = false)
    (hs : s.sync.state = .payload) (ha : s.sync.acc = 0) (hb : s.sync.bcnt = 0) (hne : xs ≠ [])
    (hl : s.sync.cap.length + xs.length = s.sync.need.toNat) (hc : s.queue.closed = false)
    (hr : s.queue.q.length < s.build.queueCap) :
    ∃ y, Receives (bits xs) s ((s.setQueue (s.queue.enqueue
        { bytes := s.sync.cap ++ xs, length := BitVec.ofNat 24 s.sync.need.toNat })).setSync y) ∧
      y.state = .search ∧ y.fill = 0 ∧ y.cap = [] := by
  obtain ⟨xs, x, rfl⟩ := (List.eq_nil_or_concat' xs).resolve_left hne
  rw [List.length_append, List.length_singleton] at hl
  have hinit := receives_bytes hm hx hs ha hb (xs := xs) (by omega)
  have hbyte := receives_byte (s := s.setSync (s.sync.captured xs)) x hm hx hs rfl
  have hlen : (s.sync.captured xs).cap.length = s.sync.cap.length + xs.length := List.length_append
  rw [if_pos (by rw [State.setSync_sync, hlen]; exact hl), State.setSync_sync, Sync.captured_append, State.setSync_setSync,
    tryEnqueue_room (s := s.setSync (s.sync.captured (xs ++ [x]))) hc hr] at hbyte
  rw [bits_append, bits_cons, bits_nil, List.append_nil]
  exact ⟨_, hinit.append hbyte, rfl, rfl, rfl⟩

/-- A packet of this version that is as long as its LENGTH asks for is captured whole and enqueued (R184, R185). -/
theorem receives_packet {s : State} {raw : List Byte} (hm : s.mode = .run) (hx : s.cfg.extSink = false)
    (hs : s.sync.state = .header) (hh : s.sync.hcnt = 0) (hv : packetByte raw 0 / 16 = 1)
    (hl : raw.length = 8 + lengthField raw) (hc : s.queue.closed = false) (hr : s.queue.q.length < s.build.queueCap) :
    ∃ y, Receives (bits raw) s ((s.setQueue (s.queue.enqueue
        { bytes := raw, length := BitVec.ofNat 24 raw.length })).setSync y) ∧ y.state = .search ∧ y.fill = 0 ∧ y.cap = [] := by
  rcases raw with _ | ⟨a, _ | ⟨b, _ | ⟨c, _ | ⟨d, rest⟩⟩⟩⟩
  case cons.cons.cons.cons =>
    have hfield : lengthField (a :: b :: c :: d :: rest) = 256 * c.toNat + d.toNat := rfl
    obtain ⟨y, hheader, hst, hacc, hbcnt, hcap, hneed⟩ := receives_header (b := b) (c := c) (d := d) hm hx hs hh hv
    have htotal : y.need.toNat = (a :: b :: c :: d :: rest).length := by rw [hneed, hl, hfield, Nat.add_assoc]
    have hrest : rest ≠ [] := by
      rintro rfl
      simp only [List.length_cons, List.length_nil] at hl
      omega
    obtain ⟨y', hbody, hdone⟩ := receives_capture (s := s.setSync y) (xs := rest) hm hx hst hacc hbcnt hrest
      (by rw [State.setSync_sync, hcap, htotal]; exact Nat.add_comm ..) hc hr
    rw [State.setSync_sync, hcap, htotal] at hbody
    exact ⟨y', hheader.append hbody, hdone⟩
  all_goals
    simp only [List.length_cons, List.length_nil] at hl
    omega

/-! ## The frame (R188) -/

/-- The frame up to its last core bit is the access code and the bits of the packet (R91, R143). -/
theorem bits_encodeFrame_take_core {alignSamples sps bps : Nat} (payload : List Byte) (ac : Bits) (off : BitVec 4)
    (ha : 1 ≤ alignSamples) (hb : 1 ≤ bps) :
    ∃ pad, (bits (encodeFrame alignSamples payload sps bps ac off)).take (ac.length + 64 + 8 * payload.length) =
      ac ++ bits (packetBytes off pad payload) := by
  refine ⟨padBits (alignModulus alignSamples sps bps) (coreBits ac.length payload.length), ?_⟩
  rw [bits_encodeFrame payload ac off ha hb, List.take_left']
  rw [List.length_append, bits_length, packetBytes_length]
  omega

/-- The packet of an encoded frame is captured as it was written (R185). -/
theorem receives_packetBytes {s : State} {p : List Byte} (off : BitVec 4) (pad : Nat) (hm : s.mode = .run)
    (hx : s.cfg.extSink = false) (hs : s.sync.state = .header) (hh : s.sync.hcnt = 0) (hp : p.length ≤ 65535)
    (hc : s.queue.closed = false) (hr : s.queue.q.length < s.build.queueCap) :
    ∃ y, Receives (bits (packetBytes off pad p)) s ((s.setQueue (s.queue.enqueue
        { bytes := packetBytes off pad p, length := BitVec.ofNat 24 (8 + p.length) })).setSync y) ∧
      y.state = .search ∧ y.fill = 0 ∧ y.cap = [] := by
  have hlt := off.isLt
  obtain ⟨hbyte, hfield⟩ := header_fields_packetBytes off pad [] hp
  rw [List.append_nil] at hbyte hfield
  have hpacket := receives_packet (raw := packetBytes off pad p) hm hx hs hh (by omega) (by rw [packetBytes_length, hfield]) hc hr
  rwa [packetBytes_length] at hpacket

/-- Settles O39: the access code starts the header, the packet behind it is captured, and the decoder undoes the encoder on it. -/
theorem frameIsDelimited : Obligations.FrameIsDelimited := by
  intro s p off sps bps hs hm hx hst hc hr hpend hp _ hb frame core shift hno
  obtain ⟨-, hn, -, -⟩ := hs.cfg.committed hm
  obtain ⟨-, -, -, ⟨halign, -⟩, -⟩ := hs.build
  obtain ⟨pad, hsplit⟩ := bits_encodeFrame_take_core (sps := sps) p s.cfg.ac off halign hb
  have hcore : core = s.cfg.ac ++ bits (packetBytes off pad p) := by rw [← hsplit, ← hn]
  have hshift (u : Bits) (hu : u <+: s.cfg.ac) : shift u.length = shiftBits s.sync.sr u := by
    have htake : core.take u.length = u :=
      (List.prefix_iff_eq_take.1 (hcore ▸ hu.trans (List.prefix_append _ _))).symm
    simp only [shift, htake, ← shiftBit_eq]
    rfl
  obtain ⟨y, hcode, hheader, hcnt⟩ := receives_accessCode hs hm hx hst fun u hu0 hu hune hfill => by
    rw [← hshift u hu]
    refine hno u.length (List.length_pos_iff.2 hu0) ?_ hfill
    exact hn ▸ lt_of_le_of_ne hu.length_le fun h => hune (hu.eq_of_length h)
  obtain ⟨y', hpacket, hstate, hfill, hcap⟩ := receives_packetBytes (s := s.setSync y) off pad hm hx hheader hcnt hp hc hr
  obtain ⟨e, hrun⟩ := (hcode.append hpacket).presentBits (e := s.env) hpend
  rw [← hcore] at hrun
  have hlength : (BitVec.ofNat 24 (8 + p.length)).toNat = 8 + p.length :=
    (BitVec.toNat_ofNat _ _).trans (Nat.mod_eq_of_lt (by omega))
  have hdecode := decodePacket_packetBytes off pad [] hp hlength.ge
  rw [List.append_nil] at hdecode
  exact ⟨_, _, hrun, rfl, packetBytes_length off pad p, hlength, hdecode, hstate, hfill, hcap, rfl⟩

end Sys2Proof.Machine
end

section
/-!
The queue (`43_queue.md`) and what is final: the outcomes of `Q.ENQ` and `Q.DEQ`, and that closed flags, the closed encoder and stopped
units are left only by reset.
-/

namespace Sys2Proof.Machine

/-! ## The operations of the queue (R202, R203) -/

/-- A closed queue ends the wait of every enqueue, and an open one with room takes the packet of a connected sink (R202, log entry 19). -/
theorem enabled_qEnq_of_run {s : State} (length : BitVec 24) (bytes : List Byte) (hm : s.mode = .run)
    (h : s.queue.closed = true ∨ (s.cfg.extSink = true ∧ s.queue.q.length < s.build.queueCap)) :
    s.enabled (.qEnq length bytes) = true := by
  simpa [State.enabled, hm] using h

/-- The `enq` pins form an enqueue while the sink is connected, and one that waited needs no pins (R127, log entry 19). -/
theorem operandRefusal_qEnq_eq_none {s : State} (length : BitVec 24) (bytes : List Byte)
    (h : s.cfg.extSink = true ∨ s.env.again = true) : s.operandRefusal (.qEnq length bytes) = none :=
  if_pos (Bool.or_eq_true_iff.2 h)

/-- The waiting pipeline fetches once a packet is queued or the queue is closed (R241). -/
theorem canFetch_of_run {s : State} (hm : s.mode = .run) (hp : s.pipe.state = .waitPacket)
    (h : s.queue.q ≠ [] ∨ s.queue.closed = true) : s.canFetch = true := by
  simpa [State.canFetch, hm, hp] using h

theorem fetchPacket_of_cons {s : State} {rp : RawPacket} {rest : List RawPacket} (hq : s.queue.q = rp :: rest) :
    s.fetchPacket = (s.setQueue { s.queue with q := rest }).setPipe { s.pipe with
      decLast := (decodePacket rp.bytes rp.length).code, res := decodePacket rp.bytes rp.length, state := .decoded } := by
  rw [State.fetchPacket, Queue.dequeue, hq]

theorem fetchPacket_of_nil {s : State} (hq : s.queue.q = []) :
    s.fetchPacket = s.setPipe { s.pipe with state := .stopped, stop := .queueClosed } := by
  rw [State.fetchPacket, Queue.dequeue, hq]

theorem effect_qEnq_of_open {s : State} (length : BitVec 24) (bytes : List Byte) (hc : s.queue.closed = false) :
    effect (.qEnq length bytes) s =
      .next ((s.setQueue (s.queue.enqueue { bytes := bytes, length := length })).complete .done .none) := by
  rw [effect, if_neg (Bool.eq_false_iff.1 hc)]

theorem effect_qEnq_of_closed {s : State} (length : BitVec 24) (bytes : List Byte) (hc : s.queue.closed = true) :
    effect (.qEnq length bytes) s = .next (s.complete .queueClosed .none) := by
  rw [effect, if_pos hc]

theorem effect_qDeq_of_cons {s : State} {rp : RawPacket} {rest : List RawPacket} (hq : s.queue.q = rp :: rest) :
    effect .qDeq s = .next (s.fetchPacket.complete .done (.packet rp)) := by
  rw [effect, Queue.dequeue_eq_some (q' := { s.queue with q := rest }).2 ⟨hq, rfl⟩]

theorem effect_qDeq_of_nil {s : State} (hq : s.queue.q = []) :
    effect .qDeq s = .next (s.fetchPacket.complete .queueClosed .none) := by
  rw [effect, Queue.dequeue_eq_none.2 hq]

/-- Settles O40: the branches of the enqueue, and the two things a fetch can do. -/
theorem queueIsFirstInFirstOut : Obligations.QueueIsFirstInFirstOut := by
  refine ⟨fun s length bytes h hm => ⟨fun hx hc hr => ?_, fun hx hc => ?_⟩,
    fun s h hm hp => ⟨fun rp rest hq => ?_, fun hq hc => ?_⟩⟩
  · rw [exec_eq_effect h (operandRefusal_qEnq_eq_none length bytes (.inl hx)) (enabled_qEnq_of_run length bytes hm (.inr ⟨hx, hr⟩)),
      effect_qEnq_of_open (s := s.accept) length bytes hc]
    rfl
  · rw [exec_eq_effect h (operandRefusal_qEnq_eq_none length bytes hx) (enabled_qEnq_of_run length bytes hm (.inl hc)),
      effect_qEnq_of_closed (s := s.accept) length bytes hc, accept_complete]
  · rw [exec_eq_effect h rfl (canFetch_of_run hm hp (.inl (by simp [hq]))), effect_qDeq_of_cons (s := s.accept) hq,
      fetchPacket_of_cons (s := s.accept) hq]
    rfl
  · rw [exec_eq_effect h rfl (canFetch_of_run hm hp (.inr hc)), effect_qDeq_of_nil (s := s.accept) hq,
      fetchPacket_of_nil (s := s.accept) hq]
    rfl

/-! ## What the pool's grants and releases leave alone (R220, R222) -/

/-- From `s` to `t` only the fault registers, the pipeline, and the pool's Blobs, free list and waiters may have changed, and the
environment. Each field is true by unfolding of an operation made of such changes only. -/
structure PoolStep (s t : State) : Prop where
  build : t.build = s.build := by rfl
  mode : t.mode = s.mode := by rfl
  cfg : t.cfg = s.cfg := by rfl
  tx : t.tx = s.tx := by rfl
  sync : t.sync = s.sync := by rfl
  queue : t.queue = s.queue := by rfl
  work : t.work = s.work := by rfl
  closed : t.pool.closed = s.pool.closed := by rfl

theorem PoolStep.trans {s t u : State} (h : PoolStep s t) (h' : PoolStep t u) : PoolStep s u where
  build := h'.build.trans h.build
  mode := h'.mode.trans h.mode
  cfg := h'.cfg.trans h.cfg
  tx := h'.tx.trans h.tx
  sync := h'.sync.trans h.sync
  queue := h'.queue.trans h.queue
  work := h'.work.trans h.work
  closed := h'.closed.trans h.closed

theorem releaseTo_poolStep {idx : Index} {ws : List ReqId} {s t : State} (h : State.releaseTo idx ws s = some t) :
    PoolStep s t := by
  induction ws generalizing s t with
  | nil =>
    rw [releaseTo_nil] at h
    cases h
    exact {}
  | cons r rs ih =>
    by_cases hr : r = 0
    · subst hr
      cases hres : s.pipe.res with
      | fail f => simp [State.releaseTo, hres] at h
      | ok p =>
        by_cases hl : s.build.blobCap < p.length
        · rw [releaseTo_pipe_tooLarge idx rs s p hres hl, Option.map_eq_some_iff] at h
          obtain ⟨u, hu, rfl⟩ := h
          have hraised : PoolStep s ((s.setPool ({ s.pool with waiters := rs }.setLen idx 0)).raiseFault .payloadTooLarge
              (BitVec.ofNat 24 p.length)) := {}
          exact (hraised.trans (ih hu)).trans {}
        · rw [releaseTo_pipe_fits idx rs s p hres (Nat.not_lt.1 hl)] at h
          cases h
          exact {}
    · rw [releaseTo_external idx r rs s hr] at h
      cases h
      exact {}

theorem grantPipe_poolStep {idx : Index} {p : List Byte} {s t : State} (h : s.grantPipe idx p = some t) : PoolStep s t := by
  unfold State.grantPipe at h
  split at h
  · rw [Option.map_eq_some_iff] at h
    obtain ⟨u, hu, rfl⟩ := h
    have hraised : PoolStep s (s.raiseFault .payloadTooLarge (BitVec.ofNat 24 p.length)) := {}
    exact (hraised.trans (releaseTo_poolStep hu)).trans {}
  · cases h
    exact {}

theorem pipeAcquireBlob_poolStep {p : List Byte} {s t : State} (h : s.pipeAcquireBlob p = some t) : PoolStep s t := by
  unfold State.pipeAcquireBlob at h
  split at h
  · cases h
    exact {}
  · split at h
    · rename_i htake
      obtain ⟨rest, -, rfl⟩ := Pool.takeFree_eq_some.1 htake
      exact PoolStep.trans {} (grantPipe_poolStep h)
    · cases h
      exact {}

/-- A release while the pipeline does not wait leaves the pipeline alone: a Blob goes to the free list or to an external waiter. -/
theorem releaseTo_pipe {idx : Index} {ws : List ReqId} {s t : State} (hw : 0 ∉ ws) (h : State.releaseTo idx ws s = some t) :
    t.pipe = s.pipe := by
  cases ws with
  | nil =>
    rw [releaseTo_nil] at h
    cases h
    rfl
  | cons r rs =>
    rw [releaseTo_external idx r rs s fun hr => hw (by simp [hr])] at h
    cases h
    rfl

/-- The closing of the pool while the pipeline does not wait leaves the pipeline alone (R219). -/
theorem wakeAll_pipe {ws : List ReqId} (hw : 0 ∉ ws) (s : State) : (State.wakeAll ws s).pipe = s.pipe := by
  induction ws generalizing s with
  | nil => rfl
  | cons r rs ih =>
    obtain ⟨hr, hrs⟩ := List.ne_and_not_mem_of_not_mem_cons hw
    rw [State.wakeAll, if_neg hr.symm, ih hrs, State.completeFor_pipe]

/-! ## What is closed or stopped stays so (R315, R336 a) -/

/-- From `s` to `t` what is closed or stopped stays so. Each field is true by unfolding of an operation that leaves its unit alone, so
that a proof names only the units its operation changes. -/
structure KeepsTerminal (s t : State) : Prop where
  source : s.tx.srcClosed = true → t.tx.srcClosed = true := by exact id
  encoder : s.tx.encClosed = true → t.tx.encClosed = true := by exact id
  queue : s.queue.closed = true → t.queue.closed = true ∧ t.queue.q.length ≤ s.queue.q.length := by
    exact fun h => ⟨h, Nat.le_refl _⟩
  pool : s.pool.closed = true → t.pool.closed = true := by exact id
  sync : s.sync.state = .stopped → t.sync = s.sync := by exact fun _ => rfl
  pipe : 0 ∉ s.pool.waiters → s.pipe.state = .stopped →
      t.pipe.state = .stopped ∧ t.pipe.stop = s.pipe.stop ∧ ∃ l, t.queue.q = s.queue.q ++ l := by
    exact fun _ h => ⟨h, rfl, [], (List.append_nil _).symm⟩

/-- The completion of an operation is no part of what is closed or stopped. -/
theorem KeepsTerminal.complete {s t : State} (h : KeepsTerminal s t) (c : Code) (r : Result) : KeepsTerminal s (t.complete c r) :=
  ⟨h.source, h.encoder, h.queue, h.pool, h.sync, h.pipe⟩

/-- A step of the pool closes and opens nothing: what is left to show is that it keeps a stopped pipeline. -/
theorem PoolStep.keepsTerminal {s t : State} (h : PoolStep s t)
    (hp : 0 ∉ s.pool.waiters → s.pipe.state = .stopped → t.pipe.state = .stopped ∧ t.pipe.stop = s.pipe.stop) :
    KeepsTerminal s t where
  source := by rw [h.tx]; exact id
  encoder := by rw [h.tx]; exact id
  queue := by rw [h.queue]; exact fun hc => ⟨hc, Nat.le_refl _⟩
  pool := by rw [h.closed]; exact id
  sync := fun _ => h.sync
  pipe := fun hw hs => ⟨(hp hw hs).1, (hp hw hs).2, [], by rw [h.queue, List.append_nil]⟩

/-- A packet enters only an open queue, at its back (R201). -/
theorem keepsTerminal_enqueue {s : State} (hc : s.queue.closed = false) (rp : RawPacket) :
    KeepsTerminal s (s.setQueue (s.queue.enqueue rp)) where
  queue := fun h => absurd (hc.symm.trans h) Bool.false_ne_true
  pipe := fun _ h => ⟨h, rfl, [rp], rfl⟩

/-- A Sync unit that has not stopped may change. -/
theorem keepsTerminal_setSync {s : State} (hs : s.sync.state ≠ .stopped) (y : Sync) : KeepsTerminal s (s.setSync y) where
  sync := fun hstop => absurd hstop hs

/-! ### The transmit half (R30, R160, R163) -/

theorem offer_keepsTerminal (s : State) (item : SrcItem) : KeepsTerminal s (s.offer item) := by
  unfold State.offer
  split <;> exact {}

theorem pull_keepsTerminal (s : State) (cap : BitVec 24) : KeepsTerminal s (s.pull cap) := by
  unfold State.pull
  split
  · exact {}
  · split
    · split
      · exact {}
      · exact { encoder := fun _ => rfl }
    · exact {}

/-! ### The Sync unit and the queue (R181, R187, R201) -/

/-- The enqueue of a capture, for a Sync unit that has not stopped. -/
theorem tryEnqueue_keepsTerminal {s : State} (hs : s.sync.state ≠ .stopped) (y : Sync) :
    KeepsTerminal s (s.setSync y).tryEnqueue := by
  rcases tryEnqueue_cases (s.setSync y) with ⟨-, h⟩ | ⟨hc, -, h⟩ | ⟨-, -, h⟩
  · rw [h]
    exact { sync := fun hstop => absurd hstop hs }
  · rw [h]
    exact { keepsTerminal_enqueue (s := s) hc _ with sync := fun hstop => absurd hstop hs }
  · rw [h]
    exact { sync := fun hstop => absurd hstop hs }

theorem payloadBit_keepsTerminal {s : State} (hs : s.sync.state ≠ .stopped) (b : Bool) : KeepsTerminal s (s.payloadBit b) := by
  by_cases h8 : s.sync.bcnt + 1 = 8
  · rw [payloadBit_last b h8]
    split
    · exact tryEnqueue_keepsTerminal hs _
    · exact keepsTerminal_setSync hs _
  · rw [payloadBit_inner b h8]
    exact keepsTerminal_setSync hs _

/-- A stopped Sync unit discards the bit, and any other may change (R182, R187). -/
theorem receiveBit_keepsTerminal (s : State) (b : Bool) : KeepsTerminal s (s.receiveBit b) := by
  by_cases hs : s.sync.state = .stopped
  · rw [receiveBit_discarded b (.inr hs)]
    exact {}
  · unfold State.receiveBit
    split
    · exact {}
    · split
      · exact keepsTerminal_setSync hs _
      · exact keepsTerminal_setSync hs _
      · exact payloadBit_keepsTerminal hs b
      · exact {}
      · exact {}

/-- A fetch takes a packet from the queue, closed or not, and is made by a pipeline that has not stopped (R241). -/
theorem fetchPacket_keepsTerminal {s : State} (hp : s.pipe.state ≠ .stopped) : KeepsTerminal s s.fetchPacket := by
  rcases fetchPacket_cases s with ⟨rp, rest, hq, h⟩ | ⟨-, h⟩
  · rw [h]
    exact { queue := fun hc => ⟨hc, by simp [hq]⟩, pipe := fun _ hstop => absurd hstop hp }
  · rw [h]
    exact { pipe := fun _ hstop => absurd hstop hp }

/-! ### The pool and the pipeline (R215 d, R247) -/

/-- No step of a stopped pipeline is enabled (R247). -/
theorem Pipe.idle_of_stopped {p : Pipe} (h : p.state = .stopped) : p.wantsBlob = false ∧ p.hasMessage = false :=
  ⟨wantsBlob_eq_false (.inl (by simp [h])), hasMessage_eq_false (by simp [h]) (.inl (by simp [h]))⟩

/-- The steps of the pipeline, among them the records that stand for them (log entries 10 and 12), are enabled only while it has not
stopped. -/
theorem pipe_ne_stopped {s : State} {i : Instr} (hi : i ∈ [.qDeq, .pipeFetch, .pipeAcquire, .poolAcq 0, .pipeEmit])
    (he : s.enabled i = true) : s.pipe.state ≠ .stopped := by
  intro hs
  have hfetch : s.canFetch = false := canFetch_eq_false (.inl (by simp [hs]))
  obtain ⟨hblob, hmsg⟩ := Pipe.idle_of_stopped hs
  simp only [List.mem_cons, List.not_mem_nil, or_false] at hi
  obtain rfl | rfl | rfl | rfl | rfl := hi
  all_goals simp [State.enabled, hfetch, hblob, hmsg] at he

theorem acquireExternal_keepsTerminal (s : State) (r : ReqId) : KeepsTerminal s (s.acquireExternal r) := by
  unfold State.acquireExternal
  split
  · exact {}
  · split
    · rename_i htake
      obtain ⟨rest, -, rfl⟩ := Pool.takeFree_eq_some.1 htake
      exact {}
    · exact {}

theorem acquireNonBlocking_keepsTerminal (s : State) (r : ReqId) : KeepsTerminal s (s.acquireNonBlocking r) := by
  unfold State.acquireNonBlocking
  split
  · exact {}
  · split
    · rename_i htake
      obtain ⟨rest, -, rfl⟩ := Pool.takeFree_eq_some.1 htake
      exact {}
    · exact {}

theorem effect_pipeAcquire_keepsTerminal {s t : State} (hp : s.pipe.state ≠ .stopped) (h : effect .pipeAcquire s = .next t) :
    KeepsTerminal s t := by
  simp only [effect] at h
  split at h
  · obtain ⟨u, hu, rfl⟩ := granted_next h
    exact ((pipeAcquireBlob_poolStep hu).keepsTerminal fun _ hs => absurd hs hp).complete _ _
  · cases h

/-- `POOL.ACQ` is the pipeline's acquire for requester 0 and an external one for any other (R216). -/
theorem effect_poolAcq_keepsTerminal {s t : State} {r : ReqId} (he : s.enabled (.poolAcq r) = true)
    (h : effect (.poolAcq r) s = .next t) : KeepsTerminal s t := by
  by_cases hr : r = 0
  · subst hr
    exact effect_pipeAcquire_keepsTerminal (pipe_ne_stopped (by simp) he) h
  · rw [effect, if_neg hr] at h
    cases h
    exact acquireExternal_keepsTerminal s r

/-- A release changes a stopped pipeline only by serving it as a waiter, which it is not (R215 e). -/
theorem effect_poolRel_keepsTerminal {s t : State} {idx : Index} (h : effect (.poolRel idx) s = .next t) :
    KeepsTerminal s t := by
  simp only [effect] at h
  split at h
  · cases h
    exact {}
  · split at h
    · cases h
      exact {}
    · obtain ⟨u, hu, rfl⟩ := granted_next h
      refine ((releaseTo_poolStep hu).keepsTerminal fun hw hs => ?_).complete _ _
      rw [releaseTo_pipe hw hu]
      exact ⟨hs, rfl⟩

/-- The closing of the pool stops only a pipeline that waits for a Blob (R219). -/
theorem poolClose_keepsTerminal (s : State) :
    KeepsTerminal s (State.wakeAll s.pool.waiters (s.setPool { s.pool with closed := true, waiters := [] })) := by
  obtain ⟨-, -, -, -, -, htx, hsync, hqueue, hpool, -⟩ :=
    wakeAll_frame s.pool.waiters (s.setPool { s.pool with closed := true, waiters := [] })
  constructor
  case source | encoder =>
    rw [htx]
    exact id
  case queue =>
    rw [hqueue]
    exact fun hc => ⟨hc, Nat.le_refl _⟩
  case pool =>
    rw [hpool]
    exact fun _ => rfl
  case sync => exact fun _ => hsync
  case pipe =>
    intro hw hs
    rw [wakeAll_pipe hw, hqueue]
    exact ⟨hs, rfl, [], (List.append_nil _).symm⟩

/-! ### All operations -/

/-- The configuration and START are no part of what is closed or stopped. -/
theorem writeRegister_keepsTerminal (s : State) (addr : Byte) (data : Word) : KeepsTerminal s (s.writeRegister addr data) := by
  unfold State.writeRegister
  split
  · split <;> exact {}
  · split
    · rcases startCommit_cases s with ⟨code, -, h⟩ | ⟨-, h⟩
      all_goals
        rw [h]
        exact {}
    · exact {}

/-- No enabled operation but reset opens what is closed or starts what is stopped (R315). -/
theorem effect_keepsTerminal {s t : State} {i : Instr} (hi : i ≠ .sysReset) (he : s.enabled i = true)
    (h : effect i s = .next t) : KeepsTerminal s t := by
  cases i
  case sysReset => exact absurd rfl hi
  case poolAcq r => exact effect_poolAcq_keepsTerminal he h
  case poolRel idx => exact effect_poolRel_keepsTerminal h
  case pipeAcquire => exact effect_pipeAcquire_keepsTerminal (pipe_ne_stopped (by simp) he) h
  all_goals obtain rfl := Host.Outcome.next.inj h
  case cfgWr addr data => exact writeRegister_keepsTerminal s addr data
  case txMsg payload => exact offer_keepsTerminal s _
  case txCtrl => exact offer_keepsTerminal s _
  case txClose => exact { source := fun _ => rfl }
  case txPull cap => exact pull_keepsTerminal s cap
  case rxBit b => exact (receiveBit_keepsTerminal s b).complete _ _
  case syncPush =>
    have hs : s.sync.state ≠ .stopped := fun hs => by simp [State.enabled, hs] at he
    exact (tryEnqueue_keepsTerminal hs s.sync).complete _ _
  case qEnq length bytes =>
    split
    · exact {}
    · rename_i hc
      exact (keepsTerminal_enqueue (Bool.eq_false_iff.2 hc) _).complete _ _
  case qDeq =>
    have hp := pipe_ne_stopped (by simp) he
    split
    all_goals exact (fetchPacket_keepsTerminal hp).complete _ _
  case qClose => exact { queue := fun _ => ⟨rfl, Nat.le_refl _⟩ }
  case poolAcqnb r => exact acquireNonBlocking_keepsTerminal s r
  case poolClose => exact (poolClose_keepsTerminal s).complete _ _
  case pipeFetch => exact (fetchPacket_keepsTerminal (pipe_ne_stopped (by simp) he)).complete _ _
  case pipeEmit =>
    have hp := pipe_ne_stopped (by simp) he
    exact { pipe := fun _ hs => absurd hs hp }
  case rxTake =>
    split
    · exact {}
    · split <;> exact {}
  case blobRd | blobLen => split <;> exact {}
  case nop | cfgRd => exact {}

/-- Settles O54: an operation that blocks changes none of these registers, and one that is carried out keeps them by its effect. -/
theorem closedAndStoppedAreTerminal : Obligations.ClosedAndStoppedAreTerminal := by
  intro s t i hi h
  obtain ⟨-, -, ⟨he, heff⟩ | ⟨-, rfl⟩⟩ := exec_next h
  · obtain ⟨hsource, hencoder, hqueue, hpool, hsync, hpipe⟩ :=
      effect_keepsTerminal (s := s.accept) hi ((enabled_accept s i).trans he) heff
    exact ⟨hsource, hencoder, hqueue, hpool, hsync, hpipe⟩
  · obtain ⟨hsource, hencoder, hqueue, hpool, hsync, hpipe⟩ : KeepsTerminal s (s.hold i) := {}
    exact ⟨hsource, hencoder, hqueue, hpool, hsync, hpipe⟩

end Sys2Proof.Machine
end

section
/-!
The pool's operations (`44_pool.md`): the acquires of external requesters, the outcomes of a release, the closing of the pool, the copy
into a Blob and the reads from one.
-/

namespace Sys2Proof.Machine

/-! ## The registers of one Blob (R38) -/

/-- A Blob in use is one the index names. -/
theorem Pool.getElem?_of_inUse {p : Pool} {idx : Index} (h : p.inUse idx = true) :
    p.blobs[idx.toNat]? = some { inuse := true, len := p.blen idx } := by
  unfold Pool.inUse at h
  unfold Pool.blen
  cases hb : p.blobs[idx.toNat]? with
  | none => simp [hb] at h
  | some b =>
    obtain ⟨inuse, len⟩ := b
    simpa [hb] using h

theorem Pool.lt_length_of_inUse {p : Pool} {idx : Index} (h : p.inUse idx = true) : idx.toNat < p.blobs.length := by
  obtain ⟨hlt, -⟩ := List.getElem?_eq_some_iff.1 (Pool.getElem?_of_inUse h)
  exact hlt

/-- Taking a Blob into use, as the writing of both its registers. -/
theorem Pool.setInUse_true_eq (p : Pool) (idx : Index) :
    p.setInUse idx true = { p with blobs := p.blobs.set idx.toNat { inuse := true, len := p.blen idx } } := by
  unfold Pool.setInUse Pool.blen
  congr 1
  rw [List.modify_eq_set_getElem?]
  cases hb : p.blobs[idx.toNat]? with
  | some b => rfl
  | none => exact (List.set_eq_of_length_le (List.getElem?_eq_none_iff.1 hb)).symm

/-- Writing the length of a Blob in use, as the writing of both its registers. -/
theorem Pool.setLen_eq {p : Pool} {idx : Index} (h : p.inUse idx = true) (v : BitVec 16) :
    p.setLen idx v = { p with blobs := p.blobs.set idx.toNat { inuse := true, len := v } } := by
  rw [Pool.setLen, List.modify_eq_set_getElem?, Pool.getElem?_of_inUse h]
  rfl

@[simp] theorem Pool.setLen_setLen (p : Pool) (idx : Index) (v w : BitVec 16) : (p.setLen idx v).setLen idx w = p.setLen idx w := by
  rw [Pool.setLen, Pool.setLen, List.modify_modify_eq]
  rfl

/-- The copy into a Blob in use, as the writing of its bytes and both its registers (R221). -/
theorem Pool.blobCopy_of_inUse {p : Pool} {idx : Index} (h : p.inUse idx = true) (bs : List Byte) :
    p.blobCopy idx bs = { p with
      mem := p.mem.writeBytes (blobAddr idx 0) bs
      blobs := p.blobs.set idx.toNat { inuse := true, len := BitVec.ofNat 16 bs.length } } :=
  Pool.setLen_eq (p := { p with mem := p.mem.writeBytes (blobAddr idx 0) bs }) h _

/-- Freeing a Blob in use, as the writing of both its registers (R222). -/
theorem Pool.setLen_setInUse_false_eq {p : Pool} {idx : Index} (h : p.inUse idx = true) :
    (p.setLen idx 0).setInUse idx false = { p with blobs := p.blobs.set idx.toNat { inuse := false, len := 0 } } := by
  have hlt := Pool.lt_length_of_inUse h
  rw [Pool.setLen_eq h, Pool.setInUse, List.modify_eq_set_getElem?, List.getElem?_set_self hlt]
  simp

/-! ## The acquires of an external requester (R216, R217) -/

/-- An acquire of an external requester that is in range and does not wait yet has good operands and is enabled in mode RUN. -/
theorem exec_externalAcquire {s : State} {r : ReqId} {i : Instr} (hi : i = .poolAcq r ∨ i = .poolAcqnb r)
    (h : Presentable i s) (hm : s.mode = .run) (hr : r ≠ 0) (hid : r.toNat < s.build.reqIds) (hw : r ∉ s.pool.waiters) :
    exec i s = effect i s.accept := by
  have hnew : s.pool.waiters.contains r = false := by simpa using hw
  obtain rfl | rfl := hi
  · refine exec_eq_effect h ?_ ?_
    · rw [State.operandRefusal, if_neg (Nat.not_le.2 hid), if_neg fun hc => absurd hc.2 (Bool.eq_false_iff.1 hnew)]
    · rw [State.enabled, if_neg hr, hm, hnew]
      rfl
  · refine exec_eq_effect h ?_ ?_
    · rw [State.operandRefusal, if_neg (not_or.2 ⟨hr, Nat.not_le.2 hid⟩), if_neg (Bool.eq_false_iff.1 hnew)]
    · rw [State.enabled, hm, hnew]
      rfl

/-- An external requester's two acquires on a closed pool, and on one with a free Blob (R216, R217). -/
theorem effect_externalAcquire {s : State} {r : ReqId} {i : Instr} (hi : i = .poolAcq r ∨ i = .poolAcqnb r) (hr : r ≠ 0) :
    (s.pool.closed = true → effect i s = .next (s.completeFor r .poolClosed .none)) ∧
    (∀ idx rest, s.pool.closed = false → s.pool.free = idx :: rest →
      effect i s = .next ((s.setPool ({ s.pool with free := rest }.setInUse idx true)).completeFor r .done (.index idx))) := by
  refine ⟨fun hc => ?_, fun idx rest hc hf => ?_⟩
  · obtain rfl | rfl := hi
    · rw [effect, if_neg hr, State.acquireExternal, if_pos hc]
    · rw [effect, State.acquireNonBlocking, if_pos hc]
  · have hopen : ¬s.pool.closed = true := Bool.eq_false_iff.1 hc
    have htake := Pool.takeFree_eq_some.2 ⟨rest, hf, rfl⟩
    obtain rfl | rfl := hi
    · rw [effect, if_neg hr, State.acquireExternal, if_neg hopen, htake]
    · rw [effect, State.acquireNonBlocking, if_neg hopen, htake]

/-- The blocking acquire suspends its requester while no Blob is free (R216). -/
theorem acquireExternal_empty {s : State} (r : ReqId) (hc : s.pool.closed = false) (hf : s.pool.free = []) :
    s.acquireExternal r = s.setPool { s.pool with waiters := s.pool.waiters ++ [r] } := by
  rw [State.acquireExternal, if_neg (Bool.eq_false_iff.1 hc), Pool.takeFree_eq_none.2 hf]

/-- The non-blocking acquire answers at once while no Blob is free (R217). -/
theorem acquireNonBlocking_empty {s : State} (r : ReqId) (hc : s.pool.closed = false) (hf : s.pool.free = []) :
    s.acquireNonBlocking r = s.completeFor r .empty .none := by
  rw [State.acquireNonBlocking, if_neg (Bool.eq_false_iff.1 hc), Pool.takeFree_eq_none.2 hf]

/-- Settles O41: the cases of a closed pool and of a free Blob, common to both acquires, and of the empty free list, where they differ. -/
theorem externalAcquire : Obligations.ExternalAcquire := by
  intro s r i hi h hm hr hid hw
  rw [exec_externalAcquire hi h hm hr hid hw]
  obtain ⟨hclosed, hfree⟩ := effect_externalAcquire (s := s.accept) hi hr
  refine ⟨hclosed, fun idx rest hc hf => ?_, fun hc hf => ⟨?_, ?_⟩⟩
  · rw [hfree idx rest hc hf, Pool.setInUse_true_eq]
    rfl
  · rintro rfl
    rw [effect, if_neg hr, acquireExternal_empty (s := s.accept) r hc hf]
    rfl
  · rintro rfl
    rw [effect, acquireNonBlocking_empty (s := s.accept) r hc hf, accept_completeFor]

/-! ## The release (R218, R220, R222) -/

/-- The capture register after a first fault: the fault's number and the information word (R290). -/
theorem faultInfo_eq (F : FaultNumber) (info : BitVec 24) :
    BitVec.ofNat 8 F.bit ++ info = BitVec.ofNat 32 (F.bit * 16777216 + info.toNat) := by
  have hinfo := info.isLt
  have hbit : F.bit < 5 := by cases F <;> decide
  refine BitVec.eq_of_toNat_eq ?_
  rw [toNat_faultInfo, BitVec.toNat_ofNat, BitVec.toNat_ofNat]
  omega

/-- A fault raised, with the captured word as a number (R290). -/
theorem raiseFault_eq (s : State) (F : FaultNumber) {info : BitVec 24} {n : Nat} (h : info.toNat = n) :
    s.raiseFault F info = s.setFault (s.fault ||| BitVec.ofNat 5 (2 ^ F.bit))
      (if s.fault = 0 then BitVec.ofNat 32 (F.bit * 16777216 + n) else s.faultInfo) := by
  rw [State.raiseFault, faultInfo_eq, h]

/-- A release in mode RUN is never refused or blocked. -/
theorem exec_poolRel {s : State} {idx : Index} (h : Presentable (.poolRel idx) s) (hm : s.mode = .run) :
    exec (.poolRel idx) s = effect (.poolRel idx) s.accept :=
  exec_eq_effect h rfl (beq_iff_eq.2 hm)

/-- An index as the information word of a fault (R283, R284). -/
theorem toNat_index_info (idx : Index) : (idx.setWidth 24).toNat = idx.toNat := BitVec.toNat_setWidth_of_le (by decide)

/-- The release by an index that names no Blob (R218, R283). -/
theorem effect_poolRel_of_badIndex {s : State} {idx : Index} (hN : s.build.poolSize ≤ idx.toNat) :
    effect (.poolRel idx) s = .next ((s.raiseFault .badBlobIndex (idx.setWidth 24)).complete .defect .none) := by
  rw [effect, if_pos hN]

/-- The release of a Blob that is free (R218, R284). -/
theorem effect_poolRel_of_free {s : State} {idx : Index} (hN : idx.toNat < s.build.poolSize) (hu : s.pool.inUse idx = false) :
    effect (.poolRel idx) s = .next ((s.raiseFault .doubleRelease (idx.setWidth 24)).complete .defect .none) := by
  rw [effect, if_neg (Nat.not_le.2 hN), if_pos hu]

/-- The release of a Blob in use is its release to the waiters (R218). -/
theorem effect_poolRel_of_inUse {s : State} {idx : Index} (hN : idx.toNat < s.build.poolSize) (hu : s.pool.inUse idx = true) :
    effect (.poolRel idx) s = granted (State.releaseTo idx s.pool.waiters s) fun t => t.complete .done .none := by
  rw [effect, if_neg (Nat.not_le.2 hN), if_neg (by simp [hu]), State.releaseBlob]

/-- With nobody waiting, the Blob released becomes free, at the back of the free list (R222). -/
theorem releaseTo_nil_of_inUse {s : State} {idx : Index} (hu : s.pool.inUse idx = true) :
    State.releaseTo idx [] s = some (s.setPool { s.pool with
      blobs := s.pool.blobs.set idx.toNat { inuse := false, len := 0 }, free := s.pool.free ++ [idx], waiters := [] }) := by
  rw [releaseTo_nil, Pool.setLen_setInUse_false_eq (p := { s.pool with waiters := [] }) hu]

/-- With an external requester waiting first, the Blob released stays in use, with length 0, and is handed over (R220, R222). -/
theorem releaseTo_external_of_inUse {s : State} {idx : Index} {r : ReqId} (rs : List ReqId) (hr : r ≠ 0)
    (hu : s.pool.inUse idx = true) :
    State.releaseTo idx (r :: rs) s = some ((s.setPool { s.pool with
      blobs := s.pool.blobs.set idx.toNat { inuse := true, len := 0 }, waiters := rs }).completeFor r .done (.index idx)) := by
  rw [releaseTo_external idx r rs s hr, Pool.setLen_eq (p := { s.pool with waiters := rs }) hu]

/-- Settles O42: the two faults, and the release to nobody and to an external requester. -/
theorem releaseFaultsFreesOrHandsOver : Obligations.ReleaseFaultsFreesOrHandsOver := by
  refine ⟨fun s idx h hm => ?_, fun s idx h hm hN hu => ?_⟩
  · rw [exec_poolRel h hm]
    refine ⟨fun hN => ?_, fun hN hu => ?_⟩
    · rw [effect_poolRel_of_badIndex (s := s.accept) hN, raiseFault_eq _ _ (toNat_index_info idx)]
      rfl
    · rw [effect_poolRel_of_free (s := s.accept) hN hu, raiseFault_eq _ _ (toNat_index_info idx)]
      rfl
  · rw [exec_poolRel h hm, effect_poolRel_of_inUse (s := s.accept) hN hu, State.accept_pool]
    refine ⟨fun hw => ?_, fun r rs hw hr => ?_⟩
    · rw [hw, releaseTo_nil_of_inUse (s := s.accept) hu, ← hw]
      rfl
    · rw [hw, releaseTo_external_of_inUse (s := s.accept) rs hr hu]
      rfl

/-- The length of a payload the pipeline can hold, as the information word of a fault (R282). -/
theorem toNat_length_info {p : List Byte} (h : p.length ≤ 65535) : (BitVec.ofNat 24 p.length).toNat = p.length :=
  (BitVec.toNat_ofNat _ _).trans (Nat.mod_eq_of_lt (by omega))

/-- A release to nobody or to an external requester takes no notice of the pipeline's state. -/
theorem releaseTo_waitPacket (idx : Index) {ws : List ReqId} (hw : ws.head? ≠ some 0) (s : State) :
    (State.releaseTo idx ws s).map (fun t => t.setPipe { t.pipe with state := .waitPacket }) =
      State.releaseTo idx ws (s.setPipe { s.pipe with state := .waitPacket }) := by
  cases ws with
  | nil => rfl
  | cons r rs =>
    have hr : r ≠ 0 := by simpa using hw
    rw [releaseTo_external idx r rs s hr, releaseTo_external idx r rs _ hr]
    rfl

/-- A release writes the waiters and the length itself, whatever stood there. -/
theorem releaseTo_clearLen (idx : Index) {ws : List ReqId} (hw : ws.head? ≠ some 0) (s : State) (ws' : List ReqId) :
    State.releaseTo idx ws (s.setPool ({ s.pool with waiters := ws' }.setLen idx 0)) = State.releaseTo idx ws s := by
  have hclear (ws : List ReqId) :
      ({ s.pool with waiters := ws }.setLen idx 0).setLen idx 0 = { s.pool with waiters := ws }.setLen idx 0 :=
    Pool.setLen_setLen ..
  cases ws with
  | nil =>
    rw [releaseTo_nil, releaseTo_nil, ← hclear []]
    rfl
  | cons r rs =>
    have hr : r ≠ 0 := by simpa using hw
    rw [releaseTo_external idx r rs s hr, releaseTo_external idx r rs _ hr, ← hclear rs]
    rfl

/-- The state in which a payload that fits no Blob has been turned away: the fault is raised, and the pipeline waits for a packet (R220,
R282). -/
def State.turnAway (s : State) (p : List Byte) : State :=
  (s.raiseFault .payloadTooLarge (BitVec.ofNat 24 p.length)).setPipe { s.pipe with state := .waitPacket }

/-- The pipeline with a payload that fits no Blob passes the Blob on: once it is turned away, the release is to the waiters behind it
(R220). -/
theorem releaseTo_pipe_passesOn (idx : Index) {rs : List ReqId} (s : State) {p : List Byte} (hres : s.pipe.res = .ok p)
    (hbig : s.build.blobCap < p.length) (hw : rs.head? ≠ some 0) :
    State.releaseTo idx (0 :: rs) s = State.releaseTo idx rs (s.turnAway p) := by
  rw [releaseTo_pipe_tooLarge idx rs s p hres hbig, releaseTo_waitPacket idx hw]
  exact releaseTo_clearLen idx hw (s.turnAway p) rs

/-- Turning a payload away, with the captured word as a number (R282). -/
theorem turnAway_eq (s : State) {p : List Byte} (hl : p.length ≤ 65535) :
    s.turnAway p = (s.setFault (s.fault ||| 0x02)
      (if s.fault = 0 then BitVec.ofNat 32 (16777216 + p.length) else s.faultInfo)).setPipe { s.pipe with state := .waitPacket } := by
  rw [State.turnAway, raiseFault_eq _ _ (toNat_length_info hl)]
  rfl

/-- Settles O43: the payload that fits, and the one that does not, which leaves the Blob to nobody or to an external requester. -/
theorem releaseServesThePipeline : Obligations.ReleaseServesThePipeline := by
  intro s idx rs p h hm hN hu hw hres
  rw [exec_poolRel h hm, effect_poolRel_of_inUse (s := s.accept) hN hu, State.accept_pool, hw]
  refine ⟨fun hfit => ?_, fun hbig hl => ⟨?_, ?_⟩⟩
  · have hcleared : ({ s.accept.pool with waiters := rs }.setLen idx 0).inUse idx = true := (Pool.inUse_setLen ..).trans hu
    rw [releaseTo_pipe_fits idx rs s.accept p hres hfit, State.fillBlob, State.setPool_pool, Pool.blobCopy_of_inUse hcleared,
      Pool.setLen_eq (p := { s.accept.pool with waiters := rs }) hu, List.set_set]
    rfl
  · rintro rfl
    rw [releaseTo_pipe_passesOn idx s.accept hres hbig (by simp), turnAway_eq _ hl,
      releaseTo_nil_of_inUse (by exact hu)]
    rfl
  · rintro r rs' rfl hr
    rw [releaseTo_pipe_passesOn idx s.accept hres hbig (by simpa using hr), turnAway_eq _ hl,
      releaseTo_external_of_inUse rs' hr (by exact hu)]
    rfl

/-! ## The closing of the pool (R219) -/

/-- The completion of a waiter's acquire by the closing of the pool (R219, log entry 15). -/
def poolClosedReply (r : ReqId) : Reply := { agent := .appRx, requester := some r, code := .poolClosed, result := .index 0 }

/-- Waking all waiters stops the pipeline if it is among them, and answers the others in their order. -/
theorem wakeAll_eq (ws : List ReqId) (s : State) :
    State.wakeAll ws s =
      (s.setPipe (if 0 ∈ ws then { s.pipe with state := .stopped, stop := .poolClosed } else s.pipe)).setEnv
        (s.env.answered (s.env.replies ++ (ws.filter (· ≠ 0)).map poolClosedReply)) := by
  induction ws generalizing s with
  | nil =>
    rw [if_neg List.not_mem_nil, List.filter_nil, List.map_nil, List.append_nil]
    rfl
  | cons r rs ih =>
    rw [State.wakeAll, ih]
    by_cases hr : r = 0
    · subst hr
      rw [if_pos rfl, if_pos List.mem_cons_self, List.filter_cons_of_neg (by simp)]
      simp only [State.setPipe_pipe, ite_self]
      rfl
    · have hmem : 0 ∈ r :: rs ↔ 0 ∈ rs := ⟨fun h => (List.mem_cons.1 h).resolve_left (Ne.symm hr), List.mem_cons_of_mem r⟩
      rw [if_neg hr, List.filter_cons_of_pos (by simpa using hr), List.map_cons, List.append_cons]
      simp only [hmem]
      rfl

/-- Settles O44: the pool is closed and emptied of waiters before they are woken. -/
theorem poolCloseWakesAllWaiters : Obligations.PoolCloseWakesAllWaiters := by
  intro s h
  rw [exec_eq_effect h rfl rfl, effect, wakeAll_eq]
  rfl

/-! ## The copy into a Blob and the reads from it (R221, R226, R227) -/

/-- Settles O45: the bytes written read back, and the addresses of the other bytes lie outside those written. -/
theorem blobCopyReadsBack : Obligations.BlobCopyReadsBack := by
  intro pool idx p hidx hp
  obtain ⟨hfree, -, -, -, hin, hlen⟩ := Pool.blobCopy_eq pool idx p
  refine ⟨fun k hk => ?_, ?_, fun j k hk hout => ?_, fun j hj => ?_, hin, hfree⟩
  · exact Memory.read_writeBytes_same pool.mem (blobAddr idx 0) k p hk
  · rw [hlen, if_pos ⟨rfl, hidx⟩]
    exact (BitVec.toNat_ofNat _ _).trans (Nat.mod_eq_of_lt (by omega))
  · refine Memory.read_writeBytes_other pool.mem p ?_
    have hne : j.toNat ≠ idx.toNat ∨ p.length ≤ k := hout.imp_left fun h he => h (BitVec.eq_of_toNat_eq he)
    unfold blobAddr
    omega
  · rw [hlen, if_neg fun hc => hj hc.1.symm]

/-- The specified case of `BLOB.RD` (R226). -/
theorem blobReadable_iff (s : State) (idx : Index) (off : BitVec 16) :
    s.blobReadable idx off = true ↔
      idx.toNat < s.build.poolSize ∧ s.pool.inUse idx = true ∧ off.toNat < (s.pool.blen idx).toNat := by
  simp [State.blobReadable, and_assoc]

/-- Settles O46: the specified case of each read, and the free value drawn outside it. -/
theorem blobReads : Obligations.BlobReads := by
  refine ⟨fun s idx off h hm => ⟨fun v hN hu hoff hread => ?_, fun hout => ?_⟩, fun s idx h hm => ⟨fun hN => ?_, fun hN => ?_⟩⟩
  · have hspec : s.accept.blobReadable idx off = true := (blobReadable_iff s.accept idx off).2 ⟨hN, hu, hoff⟩
    have hbyte : s.accept.pool.byteAt idx off.toNat = v := by rw [State.accept_pool, Pool.byteAt, hread, Option.getD_some]
    rw [Answers, exec_eq_effect h rfl (beq_iff_eq.2 hm), effect, if_pos hspec, hbyte, accept_complete]
  · have hspec : ¬s.accept.blobReadable idx off = true := by
      rw [blobReadable_iff s.accept idx off]
      rintro ⟨hN, hu, hoff⟩
      obtain h | h | h := hout
      · exact absurd hN (Nat.not_lt.2 h)
      · exact absurd (h.symm.trans hu) Bool.false_ne_true
      · exact absurd hoff (Nat.not_lt.2 h)
    rw [exec_eq_effect h rfl (beq_iff_eq.2 hm), effect, if_neg hspec]
    exact ⟨_, rfl⟩
  · rw [Answers, exec_eq_effect h rfl (beq_iff_eq.2 hm)]
    exact congrArg Host.Outcome.next (if_pos hN)
  · rw [exec_eq_effect h rfl (beq_iff_eq.2 hm)]
    exact ⟨_, congrArg Host.Outcome.next (if_neg (Nat.not_lt.2 hN))⟩

/-! ## Conservation (R229) -/

/-- The free list holds the index of every Blob that is not in use, each once (R215 a). -/
theorem PoolInv.free_perm {s : State} (h : PoolInv s) (hN : s.build.poolSize ≤ 65535) :
    (s.pool.free.map BitVec.toNat).Perm (s.pool.blobs.findIdxs fun b => !b.inuse) := by
  have hnodup : (s.pool.free.map BitVec.toNat).Nodup := h.freeDistinct.map fun _ _ => BitVec.eq_of_toNat_eq
  refine (List.perm_ext_iff_of_nodup hnodup List.nodup_findIdxs).2 fun k => ?_
  have hsize := h.size
  have hfree (idx : Index) (hidx : idx.toNat < s.pool.blobs.length) :
      idx ∈ s.pool.free ↔ s.pool.blobs[idx.toNat].inuse = false := by
    rw [h.freeIff, ← hsize, Pool.inUse, List.getElem?_eq_getElem hidx]
    simp [hidx]
  rw [List.mem_map, List.mem_findIdxs_iff_exists_getElem_pos]
  constructor
  · rintro ⟨idx, hmem, rfl⟩
    have hidx : idx.toNat < s.pool.blobs.length := hsize ▸ ((h.freeIff idx).1 hmem).1
    exact ⟨hidx, by simpa using (hfree idx hidx).1 hmem⟩
  · rintro ⟨hk, hb⟩
    have hidx : (BitVec.ofNat 16 k).toNat = k := (BitVec.toNat_ofNat _ _).trans (Nat.mod_eq_of_lt (by omega))
    refine ⟨BitVec.ofNat 16 k, (hfree _ (hidx.symm ▸ hk)).2 ?_, hidx⟩
    simpa [hidx] using hb

/-- Settles O57: every Blob is in use or counted in the free list. -/
theorem blobsAreConserved : Obligations.BlobsAreConserved := by
  intro s hs
  obtain ⟨⟨-, hN⟩, -⟩ := hs.build
  have hfree : s.pool.free.length = s.pool.blobs.countP fun b => !b.inuse := by
    rw [← List.length_findIdxs, ← (hs.pool.free_perm hN).length_eq, List.length_map]
  rw [hfree, ← hs.pool.size, List.length_eq_countP_add_countP (·.inuse)]
  simp

end Sys2Proof.Machine
end

section
/-!
The invariant under the operations of the registers, of the transmit half, of the Sync unit and of the queue: what each of them replaces
keeps its unit's invariant, and the other units are left alone.
-/

namespace Sys2Proof.Machine

variable {s : State}

/-! ## One unit replaced -/

/-- A completion is no part of what the invariant speaks of. -/
theorem Inv.complete (h : Inv s) (c : Code) (r : Result) : Inv (s.complete c r) := h.setEnv (.refl _)

theorem Inv.completeFor (h : Inv s) (q : ReqId) (c : Code) (r : Result) : Inv (s.completeFor q c r) := h.setEnv (.refl _)

theorem Inv.accept (h : Inv s) : Inv s.accept := h.setEnv (.refl _)

theorem Inv.draw (h : Inv s) : Inv s.draw := h.setEnv (.refl _)

theorem Inv.setTx (h : Inv s) {x : Tx} (hx : TxInv (s.setTx x)) : Inv (s.setTx x) where
  build := h.build
  cfg := h.cfg.congr rfl rfl
  fault := h.fault.congr rfl rfl rfl
  tx := hx
  sync := h.sync.congr rfl rfl
  queue := h.queue.congr rfl rfl rfl
  pool := h.pool.congr rfl rfl rfl rfl
  mem := h.mem.congr rfl
  pipe := h.pipe.congr rfl rfl
  pending := h.pending.congr rfl

theorem Inv.setQueueSync (h : Inv s) {q : Queue} {y : Sync} (hq : QueueInv (s.setQueue q)) (hy : SyncInv (s.setSync y)) :
    Inv ((s.setQueue q).setSync y) where
  build := h.build
  cfg := h.cfg.congr rfl rfl
  fault := h.fault.congr rfl rfl rfl
  tx := h.tx.congr rfl rfl rfl
  sync := hy.congr rfl rfl
  queue := hq.congr rfl rfl rfl
  pool := h.pool.congr rfl rfl rfl rfl
  mem := h.mem.congr rfl
  pipe := h.pipe.congr rfl rfl
  pending := h.pending.congr rfl

theorem Inv.setQueue (h : Inv s) {q : Queue} (hq : QueueInv (s.setQueue q)) : Inv (s.setQueue q) :=
  h.setQueueSync (y := s.sync) hq h.sync

theorem Inv.setSync (h : Inv s) {y : Sync} (hy : SyncInv (s.setSync y)) : Inv (s.setSync y) :=
  h.setQueueSync (q := s.queue) h.queue hy

/-- The pool and the pipeline change together: who waits in one is the state of the other (R215 e). -/
theorem Inv.setPoolPipe (h : Inv s) {p : Pool} {q : Pipe} (hp : PoolInv ((s.setPool p).setPipe q)) (hm : MemInv (s.setPool p))
    (hq : PipeInv (s.setPipe q)) : Inv ((s.setPool p).setPipe q) where
  build := h.build
  cfg := h.cfg.congr rfl rfl
  fault := h.fault.congr rfl rfl rfl
  tx := h.tx.congr rfl rfl rfl
  sync := h.sync.congr rfl rfl
  queue := h.queue.congr rfl rfl rfl
  pool := hp
  mem := hm.congr rfl
  pipe := hq.congr rfl rfl
  pending := h.pending.congr rfl

theorem Inv.setPool (h : Inv s) {p : Pool} (hp : PoolInv (s.setPool p)) (hm : MemInv (s.setPool p)) : Inv (s.setPool p) :=
  h.setPoolPipe (p := p) (q := s.pipe) hp hm h.pipe

/-- A pipeline that neither waits for a Blob nor goes on to wait for one changes without the pool. -/
theorem Inv.setPipe (h : Inv s) {q : Pipe} (hs : s.pipe.state ≠ .waitBlob) (hq : q.state ≠ .waitBlob) (hp : PipeInv (s.setPipe q)) :
    Inv (s.setPipe q) :=
  h.setPoolPipe (p := s.pool) { h.pool with pipeWaits := iff_of_false (mt h.pool.pipeWaits.1 hs) hq } h.mem hp

/-! ## Faults and configuration (R20 to R26, R261, R266, R290) -/

/-- Every fault but an invalid access code leaves bit 0 alone, and the bits are then not all 0 (R281, R290). -/
theorem FaultInv.raiseFault (h : FaultInv s) {F : FaultNumber} (hF : F ≠ .invalidAccessCode) (info : BitVec 24) :
    FaultInv (s.raiseFault F info) where
  failed := by
    have hbit : (BitVec.ofNat 5 (2 ^ F.bit)).getLsbD 0 = false := by
      cases F
      case invalidAccessCode => exact absurd rfl hF
      all_goals rfl
    rw [State.raiseFault_mode, State.raiseFault_fault, BitVec.getLsbD_or, hbit, Bool.or_false]
    exact h.failed
  info := by
    intro hzero
    have hbit : BitVec.ofNat 5 (2 ^ F.bit) ≠ 0 := by cases F <;> decide
    exact absurd (BitVec.or_eq_zero_iff.1 hzero).2 hbit

theorem Inv.raiseFault (h : Inv s) {F : FaultNumber} (hF : F ≠ .invalidAccessCode) (info : BitVec 24) : Inv (s.raiseFault F info) where
  build := h.build
  cfg := h.cfg.congr rfl rfl
  fault := h.fault.raiseFault hF info
  tx := h.tx.congr rfl rfl rfl
  sync := h.sync.congr rfl rfl
  queue := h.queue.congr rfl rfl rfl
  pool := h.pool.congr rfl rfl rfl rfl
  mem := h.mem.congr rfl
  pipe := h.pipe.congr rfl rfl
  pending := h.pending.congr rfl

/-- A register write keeps the range of its register, and no register is the committed access code (R23, R48, R52, R54). -/
theorem CfgInv.write (h : CfgInv s) (addr : Byte) (data : Word) : CfgInv (s.setCfg (s.cfg.write addr data)) := by
  unfold Cfg.write
  split
  · exact { h with }
  · split
    next hd => exact { h with threshold := le_of_eq_of_le (BitVec.toNat_setWidth ..) (by omega) }
    next => exact h
  · split
    next hd => exact { h with sps := le_of_le_of_eq (by omega) (BitVec.toNat_setWidth ..).symm }
    next => exact h
  · split
    next hd =>
      have hw : (data.setWidth 4).toNat = data.toNat := (BitVec.toNat_setWidth ..).trans (Nat.mod_eq_of_lt (by omega))
      exact { h with bps := by rw [State.setCfg_cfg, hw]; exact hd }
    next => exact h
  · split
    next hl => exact { h with chars := by rw [State.setCfg_cfg, List.length_append, List.length_singleton]; omega }
    next => exact h
  · exact { h with chars := Nat.zero_le _ }
  · exact h

/-- Before the first frame the offset is 0 with rotation and without (R164), so the configuration can still change. -/
theorem TxInv.setCfg (h : TxInv s) (hm : s.mode ≠ .run) (c : Cfg) : TxInv (s.setCfg c) :=
  { h with
    offset := by
      obtain ⟨-, -, -, hcnt⟩ := h.idle hm
      have hzero : s.tx.cntTx.setWidth 4 = 0 := by rw [hcnt]; rfl
      rw [State.setCfg_tx, h.offset, hzero, ite_self, ite_self] }

/-- A configuration register is written in mode SETUP (R261). -/
theorem Inv.writeCfg (h : Inv s) (hm : s.mode = .setup) (addr : Byte) (data : Word) :
    Inv (s.setCfg (s.cfg.write addr data)) where
  build := h.build
  cfg := h.cfg.write addr data
  fault := h.fault.congr rfl rfl rfl
  tx := h.tx.setCfg (by simp [hm]) _
  sync := h.sync.congr rfl rfl
  queue := h.queue.congr rfl rfl rfl
  pool := h.pool.congr rfl rfl rfl rfl
  mem := h.mem.congr rfl
  pipe := h.pipe.congr rfl rfl
  pending := h.pending.congr rfl

/-- A valid access code has 1 to 64 bits (R130, R131). -/
theorem validateAccessCode_length {chars : List Byte} {code : Bits} (h : validateAccessCode chars = some code) :
    1 ≤ code.length ∧ code.length ≤ 64 := by
  by_cases hc : chars = []
  · rw [validateAccessCode, if_pos hc] at h
    cases h
    decide
  · rw [validateAccessCode_eq hc] at h
    split at h
    next hv =>
      cases h
      rw [List.length_map]
      exact ⟨List.length_pos_of_ne_nil hc, hv.1⟩
    next => cases h

/-- What the units say of the time before mode RUN holds in mode SETUP, and so in whatever mode the commit leads to (R266). -/
theorem Inv.leaveSetup (h : Inv s) (hm : s.mode = .setup) {t : State}
    (ht : t = ((s.setFault t.fault t.faultInfo).setCfg t.cfg).setMode t.mode) (hcfg : CfgInv t) (hfault : FaultInv t) : Inv t := by
  have hidle : s.mode ≠ .run := by simp [hm]
  rw [ht]
  exact {
    build := h.build
    cfg := hcfg.congr rfl rfl
    fault := hfault.congr rfl rfl rfl
    tx := { h.tx.setCfg hidle t.cfg with idle := fun _ => h.tx.idle hidle }
    sync := { h.sync with idle := fun _ => h.sync.idle hidle }
    queue := { h.queue with idle := fun _ => h.queue.idle hidle }
    pool := { h.pool with idle := fun _ => h.pool.idle hidle }
    mem := h.mem.congr rfl
    pipe := { h.pipe with idle := fun _ => h.pipe.idle hidle }
    pending := h.pending.congr rfl }

/-- START commits a valid access code, or fails (R266). -/
theorem Inv.startCommit (h : Inv s) (hm : s.mode = .setup) : Inv s.startCommit := by
  have hbit : ¬s.fault.getLsbD 0 = true := by
    rw [← h.fault.failed, hm]
    exact nofun
  obtain ⟨code, hcode, hc⟩ | ⟨-, hc⟩ := startCommit_cases s
  · obtain ⟨h1, h64⟩ := validateAccessCode_length hcode
    have hn : (BitVec.ofNat 7 code.length).toNat = code.length := (BitVec.toNat_ofNat _ _).trans (Nat.mod_eq_of_lt (by omega))
    rw [hc]
    exact h.leaveSetup hm rfl
      { h.cfg with committed := fun _ => ⟨⟨h1, h64⟩, hn, rfl, rfl⟩, uncommitted := fun hr => absurd rfl hr }
      { h.fault with failed := iff_of_false nofun hbit }
  · rw [hc]
    have hset : (s.raiseFault .invalidAccessCode (BitVec.ofNat 24 s.cfg.acChars.length)).fault.getLsbD 0 = true := by
      rw [State.raiseFault_fault, BitVec.getLsbD_or]
      exact Bool.or_true _
    exact h.leaveSetup hm rfl
      { h.cfg with committed := nofun, uncommitted := fun _ => h.cfg.uncommitted (by simp [hm]) }
      { failed := iff_of_true rfl hset
        info := fun hzero => by
          rw [State.setMode_fault] at hzero
          rw [hzero] at hset
          exact absurd hset (by decide) }

/-- A register write in any mode (R261, R264). -/
theorem Inv.writeRegister (h : Inv s) (addr : Byte) (data : Word) : Inv (s.writeRegister addr data) := by
  unfold State.writeRegister
  split
  · split
    next hm => exact (h.writeCfg hm addr data).complete _ _
    next => exact (h.raiseFault (F := .cfgLocked) nofun _).complete _ _
  · split
    next hs => exact (h.startCommit hs.2.1).complete _ _
    next => exact h.complete _ _

/-! ## The transmit half (R27 to R30, R160 to R164) -/

/-- A frame's rest is as long as the cursor is before the end mark (R61). -/
theorem TxInv.resid_length (h : TxInv s) : s.tx.resid.length = s.tx.encEnd - s.tx.encRd := by
  have hend := h.cursor.2
  rw [Tx.resid, List.length_drop, List.length_take, min_eq_left hend]

/-- An item enters only an open source, in mode RUN (R160). -/
theorem Inv.offer (h : Inv s) (hm : s.mode = .run) {item : SrcItem} (hl : ∀ p, item = .payload p → p.length ≤ Config.maxPayload) :
    Inv (s.offer item) := by
  unfold State.offer
  split
  next => exact h.complete _ _
  next ho =>
    refine Inv.complete (h.setTx (x := { s.tx with srcQ := s.tx.srcQ ++ [item] }) { h.tx with
      payloads := fun p hp => ?_, closed := fun hc => ?_, idle := fun hr => absurd hm hr }) _ _
    · obtain hp | hp := List.mem_append.1 hp
      · exact h.tx.payloads p hp
      · exact hl p (List.mem_singleton.1 hp).symm
    · obtain ⟨-, -, hsrc⟩ := h.tx.closed hc
      exact absurd hsrc ho

theorem Inv.closeSource (h : Inv s) : Inv (s.setTx { s.tx with srcClosed := true }) :=
  h.setTx { h.tx with closed := fun hc => ⟨(h.tx.closed hc).1, (h.tx.closed hc).2.1, rfl⟩ }

/-- The bytes that leave are bytes of the frame, so the cursor stays before the end mark (R61, R163). -/
theorem Inv.pullBytes (h : Inv s) (hm : s.mode = .run) (hc : s.tx.encClosed = false) (cap : BitVec 24) : Inv (s.pullBytes cap) := by
  have hlen := h.tx.resid_length
  obtain ⟨hrd, hend⟩ := h.tx.cursor
  refine Inv.complete (h.setTx (x := s.tx.advance (min cap.toNat s.tx.resid.length)) { h.tx with
    cursor := ⟨?_, hend⟩
    closed := fun ht => absurd (hc.symm.trans ht) Bool.false_ne_true
    idle := fun hr => absurd hm hr }) _ _
  show s.tx.encRd + min cap.toNat s.tx.resid.length ≤ s.tx.encEnd
  omega

/-- A frame is loaded from its first byte on, and with rotation the offset counts it (R164). -/
theorem Inv.frameMessage (h : Inv s) (hm : s.mode = .run) (hc : s.tx.encClosed = false) {p : List Byte} {rest : List SrcItem}
    (hq : takePayload s.tx.srcQ = some (p, rest)) : Inv (s.frameMessage p rest) := by
  obtain ⟨cs, -, hsrc⟩ := takePayload_eq_some hq
  refine h.setTx ⟨⟨Nat.zero_le _, ?_⟩, fun b hb => ?_, fun ht => absurd (hc.symm.trans ht) Bool.false_ne_true, ?_,
    fun hr => absurd hm hr⟩
  · exact le_of_le_of_eq (Nat.le_add_right _ _) List.length_append.symm
  · refine h.tx.payloads b ?_
    rw [hsrc]
    exact List.mem_append_right _ (List.mem_cons_of_mem _ hb)
  · have hoff := h.tx.offset
    show (if s.cfg.useWo then s.tx.woff + 1 else s.tx.woff) = if s.cfg.useWo then (s.tx.cntTx + 1).setWidth 4 else 0
    rw [hoff, BitVec.setWidth_add _ _ (by decide)]
    cases s.cfg.useWo <;> rfl

/-- Every branch of an enabled pull (R163). -/
theorem Inv.pull (h : Inv s) {cap : BitVec 24} (he : s.enabled (.txPull cap) = true) : Inv (s.pull cap) := by
  simp only [State.enabled, Bool.and_eq_true, Bool.or_eq_true, beq_iff_eq, bne_iff_ne] at he
  obtain ⟨hm, hready⟩ := he
  cases hc : s.tx.encClosed with
  | true =>
    rw [pull_closed cap hc]
    exact h.complete _ _
  | false =>
    by_cases hr : s.tx.resid = []
    · cases hq : takePayload s.tx.srcQ with
      | some next =>
        obtain ⟨p, rest⟩ := next
        rw [pull_framing cap hc hr hq]
        exact (h.frameMessage hm hc hq).pullBytes hm hc cap
      | none =>
        have hsrc : s.tx.srcClosed = true := by simpa [hc, hr, hq] using hready
        rw [pull_ending cap hc hr hq]
        exact Inv.complete (h.setTx (x := { s.tx with srcQ := [], encClosed := true }) { h.tx with
          payloads := fun _ hp => absurd hp List.not_mem_nil
          closed := fun _ => ⟨hr, rfl, hsrc⟩
          idle := fun hr => absurd hm hr }) _ _
    · rw [pull_draining cap hc hr]
      exact h.pullBytes hm hc cap

/-! ## The queue (R201 to R204) -/

/-- A packet that a queue with room takes (R201). -/
theorem QueueInv.enqueue (h : QueueInv s) (hm : s.mode = .run) (hr : s.queue.q.length < s.build.queueCap) {rp : RawPacket}
    (hl : rp.bytes.length ≤ Config.rawMax) : QueueInv (s.setQueue (s.queue.enqueue rp)) where
  room := by
    show (s.queue.q ++ [rp]).length ≤ s.build.queueCap
    rw [List.length_append]
    exact hr
  packets := fun x hx => by
    obtain hx | hx := List.mem_append.1 hx
    · exact h.packets x hx
    · obtain rfl := List.mem_singleton.1 hx
      exact hl
  idle := fun hr => absurd hm hr

theorem Inv.closeQueue (h : Inv s) : Inv (s.setQueue { s.queue with closed := true }) := h.setQueue { h.queue with }

/-- An enabled external enqueue finds the queue closed or with room (R202). -/
theorem Inv.qEnq (h : Inv s) {length : BitVec 24} {bytes : List Byte} (he : s.enabled (.qEnq length bytes) = true)
    (hl : bytes.length ≤ Config.rawMax) {t : State} (ht : effect (.qEnq length bytes) s = .next t) : Inv t := by
  simp only [State.enabled, Bool.and_eq_true, Bool.or_eq_true, beq_iff_eq, decide_eq_true_eq] at he
  obtain ⟨hm, hready⟩ := he
  cases hc : s.queue.closed with
  | true =>
    rw [effect_qEnq_of_closed length bytes hc] at ht
    cases ht
    exact h.complete _ _
  | false =>
    have hroom : s.queue.q.length < s.build.queueCap := (hready.resolve_left (by simp [hc])).2
    rw [effect_qEnq_of_open length bytes hc] at ht
    cases ht
    exact (h.setQueue (h.queue.enqueue hm hroom hl)).complete _ _

/-! ## The Sync unit (R34 to R36, R181 to R186) -/

/-- A complete capture: as long as its LENGTH field asks for (R185). -/
structure Sync.Complete (y : Sync) : Prop where
  fill : y.fill.toNat ≤ 64
  need : 8 ≤ y.need.toNat ∧ y.need.toNat ≤ Config.rawMax
  cap : y.cap.length = y.need.toNat

/-- The enqueue of a complete capture stops the unit, leads it back to Search, or makes it wait for room (R181). -/
theorem Inv.tryEnqueue (h : Inv s) (hm : s.mode = .run) {y : Sync} (hy : y.Complete) : Inv (s.setSync y).tryEnqueue := by
  obtain ⟨hfill, hneed, hcap⟩ := hy
  obtain ⟨-, ht⟩ | ⟨-, hroom, ht⟩ | ⟨-, -, ht⟩ := tryEnqueue_cases (s.setSync y)
  · rw [ht]
    exact h.setSync ⟨hfill, nofun, nofun, nofun, nofun, fun _ => rfl, fun hr => absurd hm hr⟩
  · rw [ht]
    exact h.setQueueSync (h.queue.enqueue hm hroom (hcap.trans_le hneed.2))
      ⟨Nat.zero_le _, nofun, nofun, nofun, nofun, fun _ => rfl, fun hr => absurd hm hr⟩
  · rw [ht]
    exact h.setSync ⟨hfill, nofun, fun _ => hneed, nofun, fun _ => hcap, nofun, fun hr => absurd hm hr⟩

/-- A bit in state Search saturates the counter, and a match starts an empty header (R182). -/
theorem Inv.searchBit (h : Inv s) (hm : s.mode = .run) (hs : s.sync.state = .search) (b : Bool) :
    Inv (s.setSync (s.sync.searchBit s.cfg b)) := by
  have hcap := h.sync.empty (.inl hs)
  have hfill : (BitVec.ofNat 7 (min (s.sync.fill.toNat + 1) 64)).toNat ≤ 64 := by
    rw [BitVec.toNat_ofNat]
    omega
  rw [searchBit_eq]
  split
  · exact h.setSync
      ⟨hfill, fun _ => (by decide : (0 : BitVec 6).toNat < 32), nofun, nofun, nofun, fun _ => hcap, fun hr => absurd hm hr⟩
  · exact h.setSync { h.sync with fill := hfill, idle := fun hr => absurd hm hr }

/-- A bit in state Header is counted, and the last of 32 leads to Search or starts a capture with the four header bytes (R184). -/
theorem Inv.headerBit (h : Inv s) (hm : s.mode = .run) (hs : s.sync.state = .header) (b : Bool) :
    Inv (s.setSync (s.sync.headerBit b)) := by
  have hcap := h.sync.empty (.inr (.inl hs))
  have hcnt := h.sync.header hs
  rw [headerBit_eq]
  split
  next h32 =>
    have hnext : (s.sync.hcnt + 1).toNat < 32 := by bv_omega
    exact h.setSync { h.sync with header := fun _ => hnext, idle := fun hr => absurd hm hr }
  next =>
    split
    · exact h.setSync ⟨Nat.zero_le _, nofun, nofun, nofun, nofun, fun _ => hcap, fun hr => absurd hm hr⟩
    · have hneed : (BitVec.ofNat 17 (8 + (shiftBit s.sync.hdr b).toNat % 65536)).toNat =
          8 + (shiftBit s.sync.hdr b).toNat % 65536 := by
        rw [BitVec.toNat_ofNat]
        omega
      refine h.setSync ⟨h.sync.fill, nofun, fun _ => ?_, fun _ => ⟨(by decide : (0 : BitVec 4).toNat < 8), ?_⟩, nofun, nofun,
        fun hr => absurd hm hr⟩
      · rw [State.setSync_sync, hneed, Config.rawMax]
        omega
      · rw [State.setSync_sync, hneed, be32_length]
        omega

/-- A bit in state Payload is counted, and the last of eight adds a byte, which may complete the capture (R185). -/
theorem Inv.payloadBit (h : Inv s) (hm : s.mode = .run) (hs : s.sync.state = .payload) (b : Bool) : Inv (s.payloadBit b) := by
  have hneed := h.sync.need (.inl hs)
  obtain ⟨hbcnt, hcap⟩ := h.sync.payload hs
  have hlen : (s.sync.captured [shiftBit s.sync.acc b]).cap.length = s.sync.cap.length + 1 := List.length_append
  by_cases h8 : s.sync.bcnt + 1 = 8
  · rw [payloadBit_last b h8]
    split
    next hfull => exact h.tryEnqueue hm ⟨h.sync.fill, hneed, hlen.trans hfull⟩
    next hmore =>
      refine h.setSync ⟨h.sync.fill, ?_, fun _ => hneed, fun _ => ⟨(by decide : (0 : BitVec 4).toNat < 8), ?_⟩, ?_, ?_,
        fun hr => absurd hm hr⟩
      · exact fun hc => absurd (hs.symm.trans hc) (by decide)
      · rw [State.setSync_sync, hlen]
        exact lt_of_le_of_ne hcap hmore
      · exact fun hc => absurd (hs.symm.trans hc) (by decide)
      · rintro (hc | hc | hc) <;> exact absurd (hs.symm.trans hc) (by decide)
  · have hnext : (s.sync.bcnt + 1).toNat < 8 := by bv_omega
    rw [payloadBit_inner b h8]
    exact h.setSync { h.sync with payload := fun _ => ⟨hnext, hcap⟩, idle := fun hr => absurd hm hr }

/-- A bit in every state in which one is taken (R182). -/
theorem Inv.receiveBit (h : Inv s) (hm : s.mode = .run) (b : Bool) : Inv (s.receiveBit b) := by
  cases hx : s.cfg.extSink with
  | true =>
    rw [receiveBit_discarded b (.inl hx)]
    exact h
  | false =>
    cases hs : s.sync.state with
    | search =>
      rw [receiveBit_search b hx hs]
      exact h.searchBit hm hs b
    | header =>
      rw [receiveBit_header b hx hs]
      exact h.headerBit hm hs b
    | payload =>
      rw [receiveBit_payload b hx hs]
      exact h.payloadBit hm hs b
    | push =>
      rw [State.receiveBit, if_neg (Bool.eq_false_iff.1 hx), hs]
      exact h
    | stopped =>
      rw [receiveBit_discarded b (.inr hs)]
      exact h

/-- A retry of the enqueue is one of the complete capture the unit holds (R186). -/
theorem Inv.syncPush (h : Inv s) (he : s.enabled .syncPush = true) : Inv s.tryEnqueue := by
  simp only [State.enabled, Bool.and_eq_true, beq_iff_eq] at he
  obtain ⟨⟨hm, hs⟩, -⟩ := he
  exact h.tryEnqueue (y := s.sync) hm ⟨h.sync.fill, h.sync.need (.inr hs), h.sync.push hs⟩

end Sys2Proof.Machine
end

section
/-!
The invariant under the operations of the pool and of the pipeline (`44_pool.md`, `45_pipeline.md`) and under reset, and with it under
every step; and that no step faults.
-/

namespace Sys2Proof.Machine

variable {s : State}

/-! ## The waiters (R215 e, R216, R222) -/

/-- Another list of waiters with another state of the pipeline: who waits stays distinct, in range, and without a free Blob. -/
theorem Inv.setWaiters (h : Inv s) (hm : s.mode = .run) {ws : List ReqId} {q : Pipe} (hnodup : ws.Nodup)
    (hids : ∀ r ∈ ws, r.toNat < s.build.reqIds) (hwait : ws ≠ [] → s.pool.free = [] ∧ s.pool.closed = false)
    (hpipe : 0 ∈ ws ↔ q.state = .waitBlob) (hq : PipeInv (s.setPipe q)) :
    Inv ((s.setPool { s.pool with waiters := ws }).setPipe q) :=
  h.setPoolPipe
    { h.pool with
      waitersDistinct := hnodup, waitersIds := hids, waiting := hwait, pipeWaits := hpipe, idle := fun hr => absurd hm hr }
    { h.mem with } hq

/-- A requester joins the waiters of an open pool without a free Blob (R216). -/
theorem Inv.joinWaiters (h : Inv s) (hm : s.mode = .run) (hc : s.pool.closed = false) (hf : s.pool.free = []) {r : ReqId}
    (hr : r ∉ s.pool.waiters) (hid : r.toNat < s.build.reqIds) {q : Pipe} (hpipe : 0 ∈ s.pool.waiters ++ [r] ↔ q.state = .waitBlob)
    (hq : PipeInv (s.setPipe q)) : Inv ((s.setPool { s.pool with waiters := s.pool.waiters ++ [r] }).setPipe q) := by
  refine h.setWaiters hm (List.concat_eq_append ▸ h.pool.waitersDistinct.concat hr) (fun x hx => ?_) (fun _ => ⟨hf, hc⟩) hpipe hq
  obtain hx | hx := List.mem_append.1 hx
  · exact h.pool.waitersIds x hx
  · rwa [List.mem_singleton.1 hx]

/-- The oldest waiter leaves the waiters (R222). -/
theorem Inv.leaveWaiters (h : Inv s) (hm : s.mode = .run) {r : ReqId} {rs : List ReqId} (hw : s.pool.waiters = r :: rs) {q : Pipe}
    (hpipe : 0 ∈ rs ↔ q.state = .waitBlob) (hq : PipeInv (s.setPipe q)) :
    Inv ((s.setPool { s.pool with waiters := rs }).setPipe q) := by
  have hsub : ∀ x ∈ rs, x ∈ s.pool.waiters := fun x hx => hw ▸ List.mem_cons_of_mem r hx
  have hnodup := h.pool.waitersDistinct
  rw [hw] at hnodup
  exact h.setWaiters hm hnodup.of_cons (fun x hx => h.pool.waitersIds x (hsub x hx))
    (fun _ => h.pool.waiting (by simp [hw])) hpipe hq

/-! ## The Blobs (R215 a to c, R221, R222) -/

/-- The front of the free list becomes in use: it was free, so nobody waits (R216). -/
theorem Inv.takeFree (h : Inv s) (hm : s.mode = .run) {idx : Index} {pool : Pool} (ht : s.pool.takeFree = some (idx, pool)) :
    Inv (s.setPool pool) ∧ pool.inUse idx = true ∧ pool.waiters = [] := by
  obtain ⟨rest, hf, rfl⟩ := Pool.takeFree_eq_some.1 ht
  have hmem : idx ∈ s.pool.free := by simp [hf]
  have hnodup := h.pool.freeDistinct
  rw [hf] at hnodup
  have hidx : idx.toNat < s.pool.blobs.length := h.pool.size.symm ▸ ((h.pool.freeIff idx).1 hmem).1
  have hnone : s.pool.waiters = [] := by
    by_contra hw
    rw [(h.pool.waiting hw).1] at hmem
    exact absurd hmem List.not_mem_nil
  have hin (j : Index) : ({ s.pool with free := rest }.setInUse idx true).inUse j = if idx = j then true else s.pool.inUse j := by
    rw [Pool.inUse_setInUse]
    simp only [hidx, and_true]
    rfl
  refine ⟨h.setPool ?_ ?_, by rw [hin, if_pos rfl], hnone⟩
  · exact { h.pool with
      size := (Pool.setInUse_length ..).trans h.pool.size
      freeDistinct := hnodup.of_cons
      freeIff := fun j => by
        show j ∈ rest ↔ j.toNat < s.build.poolSize ∧ ({ s.pool with free := rest }.setInUse idx true).inUse j = false
        rw [hin]
        by_cases hj : idx = j
        · subst hj
          simpa using hnodup.notMem
        · have hrest : j ∈ rest ↔ j ∈ s.pool.free := by simp [hf, Ne.symm hj]
          rw [if_neg hj, hrest, h.pool.freeIff]
      waiting := fun hw => absurd hnone hw
      lengths := fun j => by
        rw [State.setPool_pool, Pool.blen_setInUse]
        exact h.pool.lengths j
      freeLength := fun j hj => by
        rw [State.setPool_pool, hin] at hj
        rw [State.setPool_pool, Pool.blen_setInUse]
        split at hj
        next => cases hj
        next => exact h.pool.freeLength j hj
      idle := fun hr => absurd hm hr }
  · exact ⟨h.mem.canonical, fun j k hk => h.mem.written j k (by rwa [State.setPool_pool, Pool.blen_setInUse] at hk)⟩

/-- The first part of a release: the Blob's length is cleared (R222). -/
theorem Inv.clearLen (h : Inv s) (idx : Index) : Inv (s.setPool (s.pool.setLen idx 0)) := by
  have hlen (j : Index) : (s.pool.setLen idx 0).blen j = 0 ∨ (s.pool.setLen idx 0).blen j = s.pool.blen j := by
    rw [Pool.blen_setLen]
    exact ite_eq_or_eq ..
  have hle (j : Index) : ((s.pool.setLen idx 0).blen j).toNat ≤ (s.pool.blen j).toNat := by
    obtain hj | hj := hlen j
    · exact (congrArg BitVec.toNat hj).trans_le (Nat.zero_le _)
    · exact (congrArg BitVec.toNat hj).le
  refine h.setPool { h.pool with
    size := (Pool.setLen_length ..).trans h.pool.size
    freeIff := fun j => ?_, lengths := fun j => (hle j).trans (h.pool.lengths j), freeLength := fun j hj => ?_ } ?_
  · rw [State.setPool_pool, Pool.inUse_setLen]
    exact h.pool.freeIff j
  · rw [State.setPool_pool, Pool.inUse_setLen] at hj
    obtain h0 | h0 := hlen j
    · exact h0
    · exact h0.trans (h.pool.freeLength j hj)
  · exact ⟨h.mem.canonical, fun j k hk => h.mem.written j k (hk.trans_le (hle j))⟩

/-- The last part of a release to nobody: a Blob in use without a length becomes free, at the back of the free list (R222). -/
theorem Inv.freeBlob (h : Inv s) (hm : s.mode = .run) {idx : Index} (hu : s.pool.inUse idx = true) (hlen : s.pool.blen idx = 0)
    (hw : s.pool.waiters = []) :
    Inv (s.setPool { s.pool.setInUse idx false with free := s.pool.free ++ [idx] }) := by
  have hidx := Pool.lt_length_of_inUse hu
  have hfree : idx ∉ s.pool.free := by
    intro hmem
    exact absurd (hu.symm.trans ((h.pool.freeIff idx).1 hmem).2) (by decide)
  have hin (j : Index) : (s.pool.setInUse idx false).inUse j = if idx = j then false else s.pool.inUse j := by
    rw [Pool.inUse_setInUse]
    simp only [hidx, and_true]
  have hblen (j : Index) : (s.pool.setInUse idx false).blen j = s.pool.blen j := Pool.blen_setInUse ..
  refine h.setPool { h.pool with
    size := (Pool.setInUse_length ..).trans h.pool.size
    freeDistinct := List.concat_eq_append ▸ h.pool.freeDistinct.concat hfree
    freeIff := fun j => ?_
    waiting := fun hne => absurd hw hne
    lengths := fun j => (congrArg BitVec.toNat (hblen j)).trans_le (h.pool.lengths j)
    freeLength := fun j hj => (hblen j).trans ?_
    idle := fun hr => absurd hm hr } ?_
  · show j ∈ s.pool.free ++ [idx] ↔ j.toNat < s.build.poolSize ∧ (s.pool.setInUse idx false).inUse j = false
    rw [hin, List.mem_append, List.mem_singleton, h.pool.freeIff, ← h.pool.size]
    by_cases hj : idx = j
    · subst hj
      simp [hidx]
    · simp [hj, Ne.symm hj]
  · have hj : (s.pool.setInUse idx false).inUse j = false := hj
    rw [hin] at hj
    split at hj
    next heq => exact heq ▸ hlen
    next => exact h.pool.freeLength j hj
  · exact ⟨h.mem.canonical, fun j k hk => h.mem.written j k ((congrArg BitVec.toNat (hblen j)) ▸ hk)⟩

/-- A copy into a Blob in use: the length is that of the payload, which fits, and every byte below it is written (R221). -/
theorem Inv.blobCopy (h : Inv s) (hm : s.mode = .run) {idx : Index} {p : List Byte} (hu : s.pool.inUse idx = true)
    (hl : p.length ≤ s.build.blobCap) : Inv (s.setPool (s.pool.blobCopy idx p)) := by
  have hidx := Pool.lt_length_of_inUse hu
  obtain ⟨-, hcap, -⟩ := h.build
  obtain ⟨hread, hlen, hother, hblen, hin, -⟩ := blobCopyReadsBack s.pool idx p hidx (by omega)
  obtain ⟨-, -, -, hsize, -⟩ := Pool.blobCopy_eq s.pool idx p
  refine h.setPool { h.pool with
    size := hsize.trans h.pool.size
    freeIff := fun j => ?_, lengths := fun j => ?_, freeLength := fun j hj => ?_, idle := fun hr => absurd hm hr } ?_
  · rw [State.setPool_pool, hin]
    exact h.pool.freeIff j
  · rw [State.setPool_pool]
    by_cases hj : j = idx
    · rw [hj, hlen]
      exact hl
    · rw [hblen j hj]
      exact h.pool.lengths j
  · rw [State.setPool_pool, hin] at hj
    have hne : j ≠ idx := by
      rintro rfl
      exact absurd (hu.symm.trans hj) (by decide)
    exact (hblen j hne).trans (h.pool.freeLength j hj)
  · refine ⟨Memory.wf_writeBytes h.mem.canonical _ _, fun j k hk => ?_⟩
    rw [State.setPool_pool] at hk ⊢
    by_cases hj : j = idx
    · subst hj
      rw [hlen] at hk
      rw [hread k hk]
      rfl
    · have hlt := ((s.pool.blobCopy idx p).blen j).isLt
      rw [hother j k (by omega) (.inl hj)]
      rw [hblen j hj] at hk
      exact h.mem.written j k hk

/-! ## The pipeline (R241, R245, R249) -/

/-- A pipeline that goes on to another state with the payload it holds. -/
theorem PipeInv.goOn (h : PipeInv s) (hm : s.mode = .run) (hs : s.pipe.state ≠ .stopped) {q : Pipe} (hres : q.res = s.pipe.res)
    (hstop : q.stop = s.pipe.stop) (hq : q.state ≠ .stopped) (hwait : q.state = .waitBlob → ∃ p, s.pipe.res = .ok p) :
    PipeInv (s.setPipe q) where
  payload := fun p hp => h.payload p (hres.symm.trans hp)
  holds := fun hb => (hwait hb).imp fun _ hp => hres.trans hp
  stop := iff_of_false hq (by rw [State.setPipe_pipe, hstop]; exact mt h.stop.2 hs)
  idle := fun hr => absurd hm hr

/-- A pipeline that stops, for a reason (R241, R244). -/
theorem PipeInv.stopWith (h : PipeInv s) (hm : s.mode = .run) {why : PipeStop} (hwhy : why ≠ .notStopped) :
    PipeInv (s.setPipe { s.pipe with state := .stopped, stop := why }) where
  payload := h.payload
  holds := nofun
  stop := iff_of_true rfl hwhy
  idle := fun hr => absurd hm hr

/-- A decoded payload has at most the length its 16-bit field can state (R93, R146). -/
theorem decodePacket_length {raw p : List Byte} {hint : BitVec 24} (h : decodePacket raw hint = .ok p) :
    p.length ≤ Config.maxPayload := by
  obtain ⟨-, -, -, rfl⟩ := decodePacket_eq_ok.1 h
  have h2 := packetByte_lt raw 2
  have h3 := packetByte_lt raw 3
  rw [plainPayload, whiten_length, List.length_take, lengthField, Config.maxPayload]
  omega

/-- An enabled fetch decodes the oldest packet, or stops the pipeline (R241). -/
theorem Inv.fetchPacket (h : Inv s) (he : s.canFetch = true) : Inv s.fetchPacket := by
  simp only [State.canFetch, Bool.and_eq_true, beq_iff_eq] at he
  obtain ⟨⟨hm, hs⟩, -⟩ := he
  obtain ⟨rp, rest, hq, ht⟩ | ⟨-, ht⟩ := fetchPacket_cases s
  · have hroom := h.queue.room
    rw [hq, List.length_cons] at hroom
    have hqueue : Inv (s.setQueue { s.queue with q := rest }) := h.setQueue {
      room := Nat.le_of_succ_le hroom
      packets := fun x hx => h.queue.packets x (hq ▸ List.mem_cons_of_mem rp hx)
      idle := fun hr => absurd hm hr }
    rw [ht]
    refine hqueue.setPipe (by simp [hs]) (by simp) ⟨fun p hp => decodePacket_length hp, nofun, ?_, fun hr => absurd hm hr⟩
    exact iff_of_false nofun (mt h.pipe.stop.2 (by simp [hs]))
  · rw [ht]
    exact h.setPipe (by simp [hs]) (by simp) (h.pipe.stopWith hm nofun)

/-- An enabled emission: the pipeline had a message, and waits for a packet again (R245). -/
theorem Inv.emit (h : Inv s) (he : s.enabled .pipeEmit = true) : Inv (s.setPipe s.pipe.emit) := by
  simp only [State.enabled, Bool.and_eq_true, beq_iff_eq] at he
  obtain ⟨⟨hm, -⟩, hmsg⟩ := he
  have hs : s.pipe.state = .filled ∨ s.pipe.state = .decoded := by
    by_contra hno
    rw [not_or] at hno
    rw [hasMessage_eq_false hno.1 (.inl hno.2)] at hmsg
    cases hmsg
  have hblob : s.pipe.state ≠ .waitBlob := by rcases hs with hs | hs <;> simp [hs]
  have hstop : s.pipe.state ≠ .stopped := by rcases hs with hs | hs <;> simp [hs]
  unfold Pipe.emit
  split
  · exact h.setPipe hblob nofun (h.pipe.goOn hm hstop rfl rfl nofun nofun)
  · exact h.setPipe hblob nofun (h.pipe.goOn hm hstop rfl rfl nofun nofun)

/-- The consumer takes a message out of the output register (R249). -/
theorem Inv.takeMessage (h : Inv s) (hm : s.mode = .run) : Inv (s.setPipe { s.pipe with outMsg := none }) :=
  h.setPoolPipe (p := s.pool) { h.pool with } h.mem { h.pipe with idle := fun hr => absurd hm hr }

/-! ## Grants and releases (R220, R222, R242) -/

/-- A Blob granted to the pipeline for a payload that fits: the pipeline, which no longer waits, holds it filled (R220). -/
theorem Inv.fillBlob (h : Inv s) (hm : s.mode = .run) {idx : Index} {p : List Byte} (hu : s.pool.inUse idx = true)
    (hl : p.length ≤ s.build.blobCap) (hblob : s.pipe.state ≠ .waitBlob) (hstop : s.pipe.state ≠ .stopped) :
    Inv (s.fillBlob idx p) := by
  have hcopied := h.blobCopy hm hu hl
  exact hcopied.setPipe (q := { s.pipe with blob := (idx, BitVec.ofNat 16 p.length), state := .filled }) hblob nofun
    (hcopied.pipe.goOn hm hstop rfl rfl nofun nofun)

/-- The release of a Blob to nobody or to an external requester that waits first (R220, R222). -/
theorem Inv.releaseTo_of_head_ne (h : Inv s) (hm : s.mode = .run) {idx : Index} (hu : s.pool.inUse idx = true)
    (hw : s.pool.waiters.head? ≠ some 0) {t : State} (ht : State.releaseTo idx s.pool.waiters s = some t) : Inv t := by
  cases hws : s.pool.waiters with
  | nil =>
    have hcleared : (s.pool.setLen idx 0).inUse idx = true := (Pool.inUse_setLen ..).trans hu
    have hlen : (s.pool.setLen idx 0).blen idx = 0 := by rw [Pool.blen_setLen, if_pos ⟨rfl, Pool.lt_length_of_inUse hu⟩]
    rw [hws, releaseTo_nil, ← hws] at ht
    cases ht
    exact (h.clearLen idx).freeBlob hm hcleared hlen hws
  | cons r rs =>
    have hr : r ≠ 0 := by simpa [hws] using hw
    have hmem : 0 ∈ rs ↔ s.pipe.state = .waitBlob := by
      rw [← h.pool.pipeWaits, hws, List.mem_cons, or_iff_right hr.symm]
    rw [hws, releaseTo_external idx r rs s hr] at ht
    cases ht
    exact ((h.leaveWaiters (q := s.pipe) hm hws hmem h.pipe).clearLen idx).completeFor _ _ _

/-- A release writes the waiters itself, whatever stood there. -/
theorem releaseTo_setWaiters (idx : Index) (ws : List ReqId) (s : State) (ws' : List ReqId) :
    State.releaseTo idx ws (s.setPool { s.pool with waiters := ws' }) = State.releaseTo idx ws s := by
  cases ws <;> rfl

/-- A release with the pipeline waiting first serves it, or turns it away and passes the Blob on (R220, R222). -/
theorem Inv.releaseTo_zero_cons (h : Inv s) (hm : s.mode = .run) {idx : Index} (hu : s.pool.inUse idx = true) {rs : List ReqId}
    (hws : s.pool.waiters = 0 :: rs) {t : State} (ht : State.releaseTo idx (0 :: rs) s = some t) : Inv t := by
  have hs : s.pipe.state = .waitBlob := h.pool.pipeWaits.1 (by simp [hws])
  obtain ⟨p, hres⟩ := h.pipe.holds hs
  have hnodup := h.pool.waitersDistinct
  rw [hws] at hnodup
  have hleft : Inv ((s.setPool { s.pool with waiters := rs }).setPipe { s.pipe with state := .waitPacket }) :=
    h.leaveWaiters hm hws (iff_of_false hnodup.notMem nofun) (h.pipe.goOn hm (by simp [hs]) rfl rfl nofun nofun)
  by_cases hbig : s.build.blobCap < p.length
  · have hhead : rs.head? ≠ some 0 := fun hh => hnodup.notMem (List.mem_of_head? hh)
    rw [releaseTo_pipe_passesOn idx s hres hbig hhead, ← releaseTo_setWaiters idx rs (s.turnAway p) rs] at ht
    exact (hleft.raiseFault (F := .payloadTooLarge) nofun _).releaseTo_of_head_ne hm hu hhead ht
  · have hfit : p.length ≤ s.build.blobCap := Nat.not_lt.1 hbig
    rw [releaseTo_pipe_fits idx rs s p hres hfit] at ht
    cases ht
    exact (hleft.clearLen idx).fillBlob (idx := idx) hm ((Pool.inUse_setLen ..).trans hu) hfit nofun nofun

/-- The release of a Blob in use (R222). -/
theorem Inv.releaseBlob (h : Inv s) (hm : s.mode = .run) {idx : Index} (hu : s.pool.inUse idx = true) {t : State}
    (ht : s.releaseBlob idx = some t) : Inv t := by
  by_cases hw : s.pool.waiters.head? = some 0
  · obtain ⟨rs, hws⟩ := List.head?_eq_some_iff.1 hw
    rw [State.releaseBlob, hws] at ht
    exact h.releaseTo_zero_cons hm hu hws ht
  · exact h.releaseTo_of_head_ne hm hu hw ht

/-- The grant of a Blob just taken to the pipeline, while nobody waits (R220). -/
theorem Inv.grantPipe (h : Inv s) (hm : s.mode = .run) {idx : Index} {p : List Byte} (hu : s.pool.inUse idx = true)
    (hw : s.pool.waiters = []) (hs : s.pipe.state = .decoded) {t : State} (ht : s.grantPipe idx p = some t) : Inv t := by
  unfold State.grantPipe at ht
  split at ht
  next =>
    obtain ⟨u, hrel, rfl⟩ := Option.map_eq_some_iff.1 ht
    have hraised : Inv (s.raiseFault .payloadTooLarge (BitVec.ofNat 24 p.length)) := h.raiseFault (F := .payloadTooLarge) nofun _
    have hnone : 0 ∉ (s.raiseFault .payloadTooLarge (BitVec.ofNat 24 p.length)).pool.waiters := hw ▸ List.not_mem_nil
    have hpipe : u.pipe = s.pipe := releaseTo_pipe (s := s.raiseFault _ _) hnone hrel
    have hmode : u.mode = .run := (releaseTo_poolStep hrel).mode.trans hm
    have hinv : Inv u := hraised.releaseBlob hm hu hrel
    exact hinv.setPipe (by simp [hpipe, hs]) nofun (hinv.pipe.goOn hmode (by simp [hpipe, hs]) rfl rfl nofun nofun)
  next hfit =>
    cases ht
    exact h.fillBlob hm hu (Nat.not_lt.1 hfit) (by simp [hs]) (by simp [hs])

/-- The pipeline wants a Blob exactly for a payload it has decoded (R242). -/
theorem wantsBlob_iff {q : Pipe} : q.wantsBlob = true ↔ q.state = .decoded ∧ ∃ p, q.res = .ok p := by
  unfold Pipe.wantsBlob
  split
  next hs hr => simp [hs, hr]
  next hno => exact iff_of_false nofun fun ⟨hs, p, hr⟩ => hno p hs hr

/-- The pipeline's acquire stops it, grants it a Blob or makes it wait for one (R242). -/
theorem Inv.pipeAcquireBlob (h : Inv s) (hm : s.mode = .run) (hs : s.pipe.state = .decoded) {p : List Byte} (hres : s.pipe.res = .ok p)
    {t : State} (ht : s.pipeAcquireBlob p = some t) : Inv t := by
  have hout : 0 ∉ s.pool.waiters := mt h.pool.pipeWaits.1 (by simp [hs])
  obtain ⟨-, -, -, -, hids, -⟩ := h.build
  unfold State.pipeAcquireBlob at ht
  split at ht
  next =>
    cases ht
    exact h.setPipe (by simp [hs]) nofun (h.pipe.stopWith hm nofun)
  next hc =>
    split at ht
    next idx pool htake =>
      obtain ⟨hinv, hu, hw⟩ := h.takeFree hm htake
      exact hinv.grantPipe hm hu hw hs ht
    next hnone =>
      cases ht
      exact h.joinWaiters hm (Bool.eq_false_iff.2 hc) (Pool.takeFree_eq_none.1 hnone) hout hids
        (iff_of_true (by simp) rfl) (h.pipe.goOn hm (by simp [hs]) rfl rfl nofun fun _ => ⟨p, hres⟩)

theorem Inv.of_effect_pipeAcquire (h : Inv s) (he : s.enabled .pipeAcquire = true) {t : State} (ht : effect .pipeAcquire s = .next t) :
    Inv t := by
  simp only [State.enabled, Bool.and_eq_true, beq_iff_eq, wantsBlob_iff] at he
  obtain ⟨hm, hs, p, hres⟩ := he
  simp only [effect, hres] at ht
  obtain ⟨u, hu, rfl⟩ := granted_next ht
  exact (h.pipeAcquireBlob hm hs hres hu).complete _ _

/-! ## The operations of the application on the pool (R216 to R219) -/

/-- An external requester takes a free Blob, or waits for one (R216). -/
theorem Inv.acquireExternal (h : Inv s) (hm : s.mode = .run) {r : ReqId} (hr : r ≠ 0) (hw : r ∉ s.pool.waiters)
    (hid : r.toNat < s.build.reqIds) : Inv (s.acquireExternal r) := by
  unfold State.acquireExternal
  split
  next => exact h.completeFor _ _ _
  next hc =>
    split
    next idx pool htake => exact (h.takeFree hm htake).1.completeFor _ _ _
    next hnone =>
      refine h.joinWaiters (q := s.pipe) hm (Bool.eq_false_iff.2 hc) (Pool.takeFree_eq_none.1 hnone) hw hid ?_ h.pipe
      rw [List.mem_append, List.mem_singleton, or_iff_left hr.symm]
      exact h.pool.pipeWaits

/-- An external requester takes a free Blob, or is told that there is none (R217). -/
theorem Inv.acquireNonBlocking (h : Inv s) (hm : s.mode = .run) (r : ReqId) : Inv (s.acquireNonBlocking r) := by
  unfold State.acquireNonBlocking
  split
  next => exact h.completeFor _ _ _
  next =>
    split
    next idx pool htake => exact (h.takeFree hm htake).1.completeFor _ _ _
    next => exact h.completeFor _ _ _

/-- `POOL.ACQ` is the pipeline's acquire for requester 0 and an external one for any other (R216). -/
theorem Inv.of_effect_poolAcq (h : Inv s) {r : ReqId} (ho : s.operandRefusal (.poolAcq r) = none) (he : s.enabled (.poolAcq r) = true)
    {t : State} (ht : effect (.poolAcq r) s = .next t) : Inv t := by
  by_cases hr : r = 0
  · subst hr
    exact h.of_effect_pipeAcquire he ht
  · rw [State.operandRefusal] at ho
    split at ho
    next => cases ho
    next hid =>
      simp only [State.enabled, if_neg hr, Bool.and_eq_true, beq_iff_eq, Bool.not_eq_true', List.contains_eq_mem,
        decide_eq_false_iff_not] at he
      rw [effect, if_neg hr] at ht
      cases ht
      exact h.acquireExternal he.1 hr he.2 (Nat.not_le.1 hid)

/-- `POOL.REL` raises a fault or releases a Blob in use (R218). -/
theorem Inv.of_effect_poolRel (h : Inv s) (hm : s.mode = .run) {idx : Index} {t : State} (ht : effect (.poolRel idx) s = .next t) :
    Inv t := by
  simp only [effect] at ht
  split at ht
  next =>
    cases ht
    exact (h.raiseFault (F := .badBlobIndex) nofun _).complete _ _
  next =>
    split at ht
    next =>
      cases ht
      exact (h.raiseFault (F := .doubleRelease) nofun _).complete _ _
    next hu =>
      obtain ⟨u, hrel, rfl⟩ := granted_next ht
      exact (h.releaseBlob hm (Bool.not_eq_false _ ▸ hu) hrel).complete _ _

/-- The closing of the pool leaves no waiters, and stops the pipeline if it was one of them (R219, R244). -/
theorem Inv.closePool (h : Inv s) :
    Inv (State.wakeAll s.pool.waiters (s.setPool { s.pool with closed := true, waiters := [] })) := by
  have hpool (q : Pipe) (hq : q.state ≠ .waitBlob) :
      PoolInv ((s.setPool { s.pool with closed := true, waiters := [] }).setPipe q) :=
    { h.pool with
      waitersDistinct := List.nodup_nil
      waitersIds := fun _ hr => absurd hr List.not_mem_nil
      waiting := fun hne => absurd rfl hne
      pipeWaits := iff_of_false List.not_mem_nil hq
      idle := fun hr => ⟨rfl, (h.pool.idle hr).2⟩ }
  rw [wakeAll_eq]
  refine Inv.setEnv ?_ (.refl _)
  split
  next hw =>
    have hm : s.mode = .run := by
      by_contra hr
      rw [(h.pool.idle hr).1] at hw
      exact absurd hw List.not_mem_nil
    exact h.setPoolPipe (hpool _ nofun) { h.mem with } (h.pipe.stopWith hm nofun)
  next hw => exact h.setPoolPipe (hpool _ (mt h.pool.pipeWaits.2 hw)) { h.mem with } h.pipe

/-! ## Reset (R262) -/

/-- A reset block is as after power-on, but for the bytes of `ENC_BUF` and of the Blobs, which no length reaches, and for the
payload the pipeline held. -/
theorem Inv.resetBlock (h : Inv s) : Inv s.resetBlock where
  build := h.build
  cfg := { CfgInv.reset s.build with }
  fault := { FaultInv.reset s.build with }
  tx := { TxInv.reset s.build with cursor := ⟨le_rfl, Nat.zero_le _⟩ }
  sync := { SyncInv.reset s.build with }
  queue := { QueueInv.reset s.build with }
  pool := { PoolInv.reset h.build with }
  mem := ⟨h.mem.canonical, fun _ k hk => absurd (hk.trans_eq (congrArg BitVec.toNat (Pool.reset_blob ..).2)) (Nat.not_lt_zero k)⟩
  pipe := { PipeInv.reset s.build with payload := h.pipe.payload, holds := nofun }
  pending := { PendingInv.reset s.build with }

/-! ## Every step -/

/-- Every enabled operation keeps the invariant. -/
theorem Inv.of_effect (h : Inv s) {i : Instr} (hw : i.wellFormed = true) (ho : s.operandRefusal i = none) (he : s.enabled i = true)
    {t : State} (ht : effect i s = .next t) : Inv t := by
  have hrun (hd : dataPlane i = true) : s.mode = .run := by
    by_contra hm
    exact absurd he (Bool.eq_false_iff.1 (enabled_dataPlane hd hm))
  cases i
  case poolAcq r => exact h.of_effect_poolAcq ho he ht
  case poolRel idx => exact h.of_effect_poolRel (hrun rfl) ht
  case pipeAcquire => exact h.of_effect_pipeAcquire he ht
  case qEnq length bytes => exact h.qEnq he (of_decide_eq_true hw) ht
  all_goals obtain rfl := Host.Outcome.next.inj ht
  case nop | cfgRd => exact h.complete _ _
  case cfgWr addr data => exact h.writeRegister addr data
  case sysReset => exact h.resetBlock.complete _ _
  case txMsg payload =>
    refine h.offer (hrun rfl) fun p hp => ?_
    cases hp
    exact of_decide_eq_true hw
  case txCtrl => exact h.offer (hrun rfl) nofun
  case txClose => exact h.closeSource.complete _ _
  case txPull cap => exact h.pull he
  case rxBit b => exact (h.receiveBit (hrun rfl) b).complete _ _
  case syncPush => exact (h.syncPush he).complete _ _
  case qDeq => split <;> exact (h.fetchPacket he).complete _ _
  case qClose => exact h.closeQueue.complete _ _
  case poolAcqnb r => exact h.acquireNonBlocking (hrun rfl) r
  case poolClose => exact h.closePool.complete _ _
  case blobRd | blobLen =>
    split
    · exact h.complete _ _
    · exact h.draw.complete _ _
  case pipeFetch => exact (h.fetchPacket he).complete _ _
  case pipeEmit => exact (h.emit he).complete _ _
  case rxTake =>
    split
    · exact (h.takeMessage (hrun rfl)).complete _ _
    · split <;> exact h.complete _ _

/-- Every operation attempted keeps the invariant, carried out or blocked. -/
theorem Inv.of_exec (h : Inv s) {i : Instr} {t : State} (ht : exec i s = .next t) : Inv t := by
  obtain ⟨hp, ho, ⟨he, heff⟩ | ⟨-, rfl⟩⟩ := exec_next ht
  · exact h.accept.of_effect hp.1 (ho ▸ by cases i <;> rfl) ((enabled_accept s i).trans he) heff
  · exact h.hold hp

/-- Settles O59: a step waits, goes on in the script, or attempts one operation. -/
theorem everyStepKeepsTheInvariant : Obligations.EveryStepKeepsTheInvariant := by
  intro s t h ht
  obtain ⟨e, he, hstep⟩ | ⟨e, hstep⟩ | ⟨i, e, he, hstep⟩ := step_cases s
  · obtain rfl := Host.Outcome.next.inj (hstep.symm.trans ht)
    exact h.setEnv (he ▸ .refl _)
  · cases hstep.symm.trans ht
  · exact (h.setEnv he).of_exec (hstep.symm.trans ht)

/-! ## No fault (R215 e, R220) -/

theorem granted_ne_fault {o : Option State} (h : o.isSome = true) (f : State → State) (e : Fault) : granted o f ≠ .fault e := by
  obtain ⟨t, rfl⟩ := Option.isSome_iff_exists.1 h
  exact nofun

/-- An enabled acquire of the pipeline holds a payload, so its grant has an effect (R242). -/
theorem effect_pipeAcquire_ne_fault (he : s.enabled .pipeAcquire = true) (e : Fault) : effect .pipeAcquire s ≠ .fault e := by
  simp only [State.enabled, Bool.and_eq_true, wantsBlob_iff] at he
  obtain ⟨-, -, p, hres⟩ := he
  simp only [effect, hres]
  exact granted_ne_fault (pipeAcquireBlob_isSome s p hres) _ e

/-- A pipeline among the waiters holds a payload, so a release that serves it has an effect (R215 e, R220). -/
theorem Inv.effect_poolRel_ne_fault (h : Inv s) (idx : Index) (e : Fault) : effect (.poolRel idx) s ≠ .fault e := by
  simp only [effect]
  split
  · exact nofun
  · split
    · exact nofun
    · exact granted_ne_fault (releaseTo_isSome fun hw => h.pipe.holds (h.pool.pipeWaits.1 hw)) _ e

/-- No enabled operation faults in a state that keeps the invariant. -/
theorem Inv.effect_ne_fault (h : Inv s) {i : Instr} (he : s.enabled i = true) (e : Fault) : effect i s ≠ .fault e := by
  cases i
  case poolAcq r =>
    by_cases hr : r = 0
    · subst hr
      exact effect_pipeAcquire_ne_fault he e
    · rw [effect, if_neg hr]
      exact nofun
  case poolRel idx => exact h.effect_poolRel_ne_fault idx e
  case pipeAcquire => exact effect_pipeAcquire_ne_fault he e
  all_goals exact nofun

/-- Settles O60: a step that faults would carry out an operation, on this state with another environment. -/
theorem noStepFaults : Obligations.NoStepFaults := by
  intro s h e hf
  obtain ⟨_, -, hstep⟩ | ⟨_, hstep⟩ | ⟨i, env, henv, hstep⟩ := step_cases s
  · cases hstep.symm.trans hf
  · cases hstep.symm.trans hf
  · obtain ⟨-, -, he, heff⟩ := exec_fault (hstep.symm.trans hf)
    exact (h.setEnv henv).accept.effect_ne_fault ((enabled_accept _ i).trans he) e heff

end Sys2Proof.Machine
end

section
/-!
The pipeline (`45_pipeline.md`): what each of its steps is when enabled, the outcomes of its acquire, and the delivery of a payload from
the queue to the consumer.
-/

namespace Sys2Proof.Machine

/-! ## Both registers of a Blob (R38) -/

/-- Writing the in-use bit and the length of a Blob, as the writing of both its registers, whether the index names a Blob or not. -/
theorem Pool.setLen_setInUse_eq (p : Pool) (idx : Index) (used : Bool) (v : BitVec 16) :
    (p.setInUse idx used).setLen idx v = { p with blobs := p.blobs.set idx.toNat { inuse := used, len := v } } := by
  rw [Pool.setInUse, Pool.setLen, List.modify_modify_eq, List.set_eq_modify]
  rfl

/-- The two registers can be written in either order. -/
theorem Pool.setInUse_setLen (p : Pool) (idx : Index) (used : Bool) (v : BitVec 16) :
    (p.setLen idx v).setInUse idx used = (p.setInUse idx used).setLen idx v := by
  rw [Pool.setInUse, Pool.setLen, List.modify_modify_eq, Pool.setLen, Pool.setInUse, List.modify_modify_eq]
  rfl

/-- A Blob taken into use and filled, as the writing of its bytes and of both its registers (R221). -/
theorem Pool.blobCopy_setInUse_eq (p : Pool) (idx : Index) (bs : List Byte) :
    (p.setInUse idx true).blobCopy idx bs = { p with
      mem := p.mem.writeBytes (blobAddr idx 0) bs
      blobs := p.blobs.set idx.toNat { inuse := true, len := BitVec.ofNat 16 bs.length } } :=
  Pool.setLen_setInUse_eq { p with mem := p.mem.writeBytes (blobAddr idx 0) bs } idx true _

/-- A Blob taken into use and freed again, as the writing of both its registers (R222). -/
theorem Pool.setInUse_free_eq (p : Pool) (idx : Index) :
    ((p.setInUse idx true).setLen idx 0).setInUse idx false =
      { p with blobs := p.blobs.set idx.toNat { inuse := false, len := 0 } } := by
  rw [Pool.setInUse_setLen, Pool.setLen_setInUse_eq, Pool.setInUse_true_eq, List.set_set]

/-! ## What the pipeline's steps are when enabled (R241, R242, R245, R249) -/

variable {s : State}

/-- An enabled fetch (R241). -/
theorem exec_pipeFetch (h : Presentable .pipeFetch s) (hm : s.mode = .run) (hs : s.pipe.state = .waitPacket)
    (hq : s.queue.q ≠ [] ∨ s.queue.closed = true) :
    exec .pipeFetch s = .next (s.accept.fetchPacket.complete .done .none) :=
  exec_eq_effect h rfl (canFetch_of_run hm hs hq)

/-- The acquire of a pipeline that holds a payload, presented as itself or as the `POOL.ACQ 0` that is part of it (R242, log entry 12). -/
theorem exec_pipeAcquire {i : Instr} (hi : i = .pipeAcquire ∨ (i = .poolAcq 0 ∧ 1 ≤ s.build.reqIds)) (h : Presentable i s)
    (hm : s.mode = .run) (hs : s.pipe.state = .decoded) {p : List Byte} (hres : s.pipe.res = .ok p) :
    exec i s = granted (s.accept.pipeAcquireBlob p) fun t => t.complete .done .none := by
  have hwants : s.enabled .pipeAcquire = true := by
    rw [State.enabled, hm, wantsBlob_iff.2 ⟨hs, p, hres⟩]
    rfl
  have heffect : effect .pipeAcquire s.accept = granted (s.accept.pipeAcquireBlob p) fun t => t.complete .done .none := by
    rw [effect, State.accept_pipe, hres]
  obtain rfl | ⟨rfl, hids⟩ := hi
  · rw [exec_eq_effect h rfl hwants, heffect]
  · have hid : s.operandRefusal (.poolAcq 0) = none := by
      rw [State.operandRefusal, if_neg (by exact Nat.not_le.2 hids), if_neg fun hc => hc.1 rfl]
    rw [exec_eq_effect h hid hwants]
    exact heffect

/-- An enabled emission (R245). -/
theorem exec_pipeEmit (h : Presentable .pipeEmit s) (hm : s.mode = .run) (ho : s.pipe.outMsg = none)
    (hmsg : s.pipe.hasMessage = true) : exec .pipeEmit s = .next ((s.accept.setPipe s.pipe.emit).complete .done .none) := by
  refine exec_eq_effect h rfl ?_
  rw [State.enabled, hm, ho, hmsg]
  rfl

/-- The taking of the message in the output register (R249). -/
theorem exec_rxTake_message (h : Presentable .rxTake s) (hm : s.mode = .run) {m : Message} (ho : s.pipe.outMsg = some m) :
    exec .rxTake s = .next ((s.accept.setPipe { s.pipe with outMsg := none }).complete .done (.message m)) := by
  have he : s.enabled .rxTake = true := by
    rw [State.enabled, hm, ho]
    rfl
  rw [exec_eq_effect h rfl he, effect, State.accept_pipe, ho]

/-- The answer of a stopped pipeline without a message (R249). -/
theorem exec_rxTake_stopped (h : Presentable .rxTake s) (hm : s.mode = .run) (ho : s.pipe.outMsg = none)
    (hs : s.pipe.state = .stopped) :
    exec .rxTake s = .next (s.accept.complete (if s.pipe.stop = .queueClosed then .queueClosed else .poolClosed) .none) := by
  have he : s.enabled .rxTake = true := by
    rw [State.enabled, hm, ho, hs]
    rfl
  rw [exec_eq_effect h rfl he, effect, State.accept_pipe, ho]
  exact congrArg Host.Outcome.next (apply_ite (s.accept.complete · .none) ..).symm

theorem Pipe.emit_of_filled {p : Pipe} (h : p.state = .filled) :
    p.emit = { p with outMsg := some (.ok p.blob.1 p.blob.2), cntOk := p.cntOk + 1, state := .waitPacket } :=
  if_pos h

theorem Pipe.emit_of_decoded {p : Pipe} (h : p.state = .decoded) :
    p.emit = { p with outMsg := some .fail, cntFail := p.cntFail + 1, state := .waitPacket } :=
  if_neg (by simp [h])

/-- Settles O47: the two things an enabled fetch can do. -/
theorem fetchDecodesTheOldest : Obligations.FetchDecodesTheOldest := by
  refine fun s h hm hs => ⟨fun rp rest hq => ?_, fun hq hc => ?_⟩
  · rw [exec_pipeFetch h hm hs (.inl (by simp [hq])), fetchPacket_of_cons (s := s.accept) hq]
    rfl
  · rw [exec_pipeFetch h hm hs (.inr hc), fetchPacket_of_nil (s := s.accept) hq]
    rfl

/-- Settles O49: the message of the Blob held or `Fail`, and the message taken or the reason of the stop. -/
theorem messageEmittedAndTaken : Obligations.MessageEmittedAndTaken := by
  refine ⟨fun s h hm ho => ⟨fun hs => ?_, fun f hs hres => ?_⟩,
    fun s h hm => ⟨fun m ho => ?_, fun ho hs => ⟨fun hq => ?_, fun hp => ?_⟩⟩⟩
  · have hmsg : s.pipe.hasMessage = true := by rw [Pipe.hasMessage, hs]
    rw [exec_pipeEmit h hm ho hmsg, Pipe.emit_of_filled hs]
    rfl
  · have hmsg : s.pipe.hasMessage = true := by rw [Pipe.hasMessage, hs, hres]
    rw [exec_pipeEmit h hm ho hmsg, Pipe.emit_of_decoded hs]
    rfl
  · rw [exec_rxTake_message h hm ho]
    rfl
  · rw [exec_rxTake_stopped h hm ho hs, hq, accept_complete]
    rfl
  · rw [exec_rxTake_stopped h hm ho hs, hp, accept_complete]
    rfl

/-! ## The outcomes of the pipeline's acquire (R242, R220) -/

theorem pipeAcquireBlob_closed (p : List Byte) (hc : s.pool.closed = true) :
    s.pipeAcquireBlob p = some (s.setPipe { s.pipe with state := .stopped, stop := .poolClosed }) :=
  if_pos hc

/-- The pipeline waits while no Blob is free (R242). -/
theorem pipeAcquireBlob_empty (p : List Byte) (hc : s.pool.closed = false) (hf : s.pool.free = []) :
    s.pipeAcquireBlob p =
      some ((s.setPool { s.pool with waiters := s.pool.waiters ++ [0] }).setPipe { s.pipe with state := .waitBlob }) := by
  rw [State.pipeAcquireBlob, if_neg (Bool.eq_false_iff.1 hc), Pool.takeFree_eq_none.2 hf]

theorem grantPipe_fits (idx : Index) {p : List Byte} (hl : p.length ≤ s.build.blobCap) :
    s.grantPipe idx p = some (s.fillBlob idx p) :=
  if_neg (Nat.not_lt.2 hl)

/-- The Blob just taken for a payload that fits none becomes free again while nobody waits, and the payload is turned away (R220,
R222). -/
theorem grantPipe_tooLarge {pool : Pool} (idx : Index) {p : List Byte} (hl : s.build.blobCap < p.length) (hw : pool.waiters = []) :
    (s.setPool (pool.setInUse idx true)).grantPipe idx p = some ((s.turnAway p).setPool { pool with
      blobs := pool.blobs.set idx.toNat { inuse := false, len := 0 }, free := pool.free ++ [idx] }) := by
  have hfreed : ({ pool.setInUse idx true with waiters := [] }.setLen idx 0).setInUse idx false =
      { pool with blobs := pool.blobs.set idx.toNat { inuse := false, len := 0 }, waiters := [] } :=
    Pool.setInUse_free_eq { pool with waiters := [] } idx
  rw [State.grantPipe, if_pos (by exact hl), State.releaseBlob, State.raiseFault_pool, State.setPool_pool, Pool.setInUse_waiters, hw,
    releaseTo_nil, Option.map_some]
  exact congrArg (fun q => some ((s.turnAway p).setPool { q with free := pool.free ++ [idx] })) hfreed

/-- Settles O48: the closed pool, the empty free list, the payload that fits and the one that does not. -/
theorem pipelineAcquire : Obligations.PipelineAcquire := by
  intro s i p hi h hm hs hres
  rw [exec_pipeAcquire hi h hm hs hres]
  refine ⟨fun hc => ?_, fun hc hf => ?_, fun idx rest hc hf hl => ?_, fun idx rest hc hf hw hbig hl => ?_⟩
  · rw [pipeAcquireBlob_closed (s := s.accept) p hc]
    rfl
  · rw [pipeAcquireBlob_empty (s := s.accept) p hc hf]
    rfl
  · rw [pipeAcquireBlob_free s.accept p idx rest hc hf, grantPipe_fits idx (by exact hl), State.fillBlob, State.setPool_pool,
      Pool.blobCopy_setInUse_eq]
    rfl
  · rw [pipeAcquireBlob_free s.accept p idx rest hc hf, grantPipe_tooLarge idx (by exact hbig) (by exact hw), turnAway_eq _ hl]
    rfl

/-! ## Delivery (R250, R79) -/

theorem runOps_cons {a : Agent} {i : Instr} {ops : List (Agent × Instr)} {t : State} (h : exec i (s.issuedBy a) = .next t) :
    runOps ((a, i) :: ops) s = runOps ops t := by
  rw [runOps, h]

/-- An operation without a port can be presented by its agent whatever is outstanding (R75). -/
theorem presentable_of_noPort {i : Instr} (hw : i.wellFormed = true) (ha : mayIssue s.env.agent i = true) (hp : portOf i = none) :
    Presentable i s :=
  ⟨hw, ha, fun _ _ h => absurd hp h⟩

/-- A filled Blob is emitted and its message taken (R245, R249): the pipeline waits for a packet again, with one message more counted. -/
theorem runOps_emit_take (hm : s.mode = .run) (hs : s.pipe.state = .filled) (ho : s.pipe.outMsg = none)
    (hout : ∀ rq ∈ s.env.pending, portOf rq.instr ≠ some .out) :
    runOps [(.pipe, .pipeEmit), (.appRx, .rxTake)] s = .next { s with
      pipe := { s.pipe with state := .waitPacket, outMsg := none, cntOk := s.pipe.cntOk + 1 }
      env := (s.issuedBy .appRx).env.done .done (.message (.ok s.pipe.blob.1 s.pipe.blob.2)) } := by
  obtain ⟨hemits, htakes⟩ := messageEmittedAndTaken
  obtain ⟨hemit, -⟩ := hemits (s.issuedBy .pipe) (presentable_of_noPort rfl rfl rfl) hm ho
  rw [runOps_cons (hemit hs)]
  refine runOps_cons ((htakes _ ⟨rfl, rfl, ?_⟩ ?_).1 _ rfl)
  exacts [fun rq hrq _ => hout rq hrq, hm]

/-- A decoded payload that fits gets the first free Blob, and is emitted and taken (R242, R245, R249). -/
theorem runOps_acquire_emit_take {p : List Byte} {idx : Index} {free : List Index} (hm : s.mode = .run)
    (hs : s.pipe.state = .decoded) (hres : s.pipe.res = .ok p) (ho : s.pipe.outMsg = none) (hc : s.pool.closed = false)
    (hf : s.pool.free = idx :: free) (hfit : p.length ≤ s.build.blobCap)
    (hout : ∀ rq ∈ s.env.pending, portOf rq.instr ≠ some .out) :
    runOps [(.pipe, .pipeAcquire), (.pipe, .pipeEmit), (.appRx, .rxTake)] s = .next { s with
      pool := ({ s.pool with free := free }.setInUse idx true).blobCopy idx p
      pipe := { s.pipe with
        state := .waitPacket, blob := (idx, BitVec.ofNat 16 p.length), outMsg := none, cntOk := s.pipe.cntOk + 1 }
      env := (s.issuedBy .appRx).env.done .done (.message (.ok idx (BitVec.ofNat 16 p.length))) } := by
  obtain ⟨-, -, hfits, -⟩ :=
    pipelineAcquire (s.issuedBy .pipe) .pipeAcquire p (.inl rfl) (presentable_of_noPort rfl rfl rfl) hm hs hres
  rw [runOps_cons (hfits idx free hc hf hfit), Pool.blobCopy_setInUse_eq]
  refine runOps_emit_take ?_ rfl ?_ ?_
  exacts [hm, ho, hout]

/-- The oldest packet, when it decodes to a payload that fits, is fetched, gets the first free Blob, and is emitted and taken. -/
theorem runOps_delivery {rp : RawPacket} {rest : List RawPacket} {p : List Byte} {idx : Index} {free : List Index}
    (hm : s.mode = .run) (hs : s.pipe.state = .waitPacket) (ho : s.pipe.outMsg = none) (hc : s.pool.closed = false)
    (hf : s.pool.free = idx :: free) (hq : s.queue.q = rp :: rest) (hdec : decodePacket rp.bytes rp.length = .ok p)
    (hfit : p.length ≤ s.build.blobCap) (hout : ∀ rq ∈ s.env.pending, portOf rq.instr ≠ some .out) :
    runOps [(.pipe, .pipeFetch), (.pipe, .pipeAcquire), (.pipe, .pipeEmit), (.appRx, .rxTake)] s = .next { s with
      queue := { s.queue with q := rest }
      pool := ({ s.pool with free := free }.setInUse idx true).blobCopy idx p
      pipe := { s.pipe with
        decLast := 1, res := .ok p, state := .waitPacket, blob := (idx, BitVec.ofNat 16 p.length), outMsg := none
        cntOk := s.pipe.cntOk + 1 }
      env := (s.issuedBy .appRx).env.done .done (.message (.ok idx (BitVec.ofNat 16 p.length))) } := by
  obtain ⟨hfetch, -⟩ := fetchDecodesTheOldest (s.issuedBy .pipe) (presentable_of_noPort rfl rfl rfl) hm hs
  specialize hfetch rp rest hq
  rw [hdec] at hfetch
  rw [runOps_cons hfetch]
  refine runOps_acquire_emit_take ?_ rfl rfl ?_ ?_ ?_ ?_ ?_
  exacts [hm, ho, hc, hf, hfit, hout]

/-- A payload copied into a Blob in use reads back byte by byte (R221, R226). -/
theorem answers_blobRd_blobCopy {pool : Pool} {idx : Index} {p : List Byte} {k : Nat}
    (h : Presentable (.blobRd idx (BitVec.ofNat 16 k)) s) (hm : s.mode = .run) (hidx : idx.toNat < s.build.poolSize)
    (hpool : s.pool = pool.blobCopy idx p) (hu : pool.inUse idx = true) (hl : p.length ≤ 65535) (hk : k < p.length) :
    Answers (.blobRd idx (BitVec.ofNat 16 k)) s (.byte p[k]) := by
  have hoff : (BitVec.ofNat 16 k).toNat = k := (BitVec.toNat_ofNat _ _).trans (Nat.mod_eq_of_lt (by omega))
  obtain ⟨hbytes, hlen, -, -, hused, -⟩ := blobCopyReadsBack pool idx p (Pool.lt_length_of_inUse hu) hl
  obtain ⟨hread, -⟩ := blobReads
  obtain ⟨hspecified, -⟩ := hread s idx (BitVec.ofNat 16 k) h hm
  refine hspecified p[k] hidx ?_ ?_ ?_
  · rw [hpool, hused, hu]
  · rw [hpool, hlen, hoff]
    exact hk
  · rw [hpool, hoff, hbytes k hk]

/-- Settles O50: the delivered payload has been copied into a Blob taken from the free list, from which it reads back. -/
theorem payloadIsDelivered : Obligations.PayloadIsDelivered := by
  intro s rp rest p h hm hs ho hc hfree hq hdec hfit hpending
  obtain ⟨idx, free, hf⟩ := List.exists_cons_of_ne_nil hfree
  have hrun := runOps_delivery hm hs ho hc hf hq hdec hfit fun rq hrq => (hpending rq hrq).1
  obtain ⟨hidx, -⟩ := (h.pool.freeIff idx).1 (by simp [hf])
  obtain ⟨-, hu, -⟩ := h.takeFree hm (Pool.takeFree_eq_some.2 ⟨free, hf, rfl⟩)
  refine ⟨_, idx, hrun, rfl, rfl, fun k hk => ?_⟩
  refine answers_blobRd_blobCopy ⟨rfl, rfl, ?_⟩ ?_ ?_ rfl hu (decodePacket_length hdec) hk
  exacts [fun rq hrq _ => (hpending rq hrq).2, hm, hidx]

end Sys2Proof.Machine
end

section
/-!
The Host operations of `46_host.md`: `NOP`, register reads, the writes of mode SETUP with the START commit, and reset.
-/

namespace Sys2Proof.Machine

/-! ## NOP and register reads (R263, R268) -/

/-- Settles O17: `NOP` has no port and any agent may issue it, so nothing refuses it. -/
theorem nopCompletesWithoutEffect : Obligations.NopCompletesWithoutEffect := by
  refine ⟨rfl, fun s => ?_⟩
  rw [Answers, exec_eq_effect (presentable_of_noPort rfl rfl rfl) rfl rfl, effect, accept_complete]

/-- A register read is enabled in every mode and only answers (R263); what it answers is no part of the environment. -/
theorem answers_cfgRd {s : State} {addr : Byte} (h : Presentable (.cfgRd addr) s) :
    Answers (.cfgRd addr) s (.word (s.regRead addr)) := by
  have hread : s.accept.regRead addr = s.regRead addr := rfl
  rw [Answers, exec_eq_effect h rfl rfl, effect, hread, accept_complete]

/-- `CTRL` as a number: `use_wo` in bit 0 and `ext_sink` in bit 1 (R48). -/
theorem toNat_regRead_ctrl (s : State) : (s.regRead 0x01).toNat = s.cfg.useWo.toNat + 2 * s.cfg.extSink.toNat := by
  have hword : s.regRead 0x01 = (BitVec.ofBool s.cfg.extSink ++ BitVec.ofBool s.cfg.useWo).setWidth 32 := rfl
  rw [hword, BitVec.toNat_setWidth_of_le (by decide), toNat_append_eq, BitVec.toNat_ofBool, BitVec.toNat_ofBool]
  omega

/-- Settles O18: the fields of the configuration registers fit the register word. -/
theorem registerReadCompletes : Obligations.RegisterReadCompletes :=
  ⟨fun _ _ => answers_cfgRd,
    fun s => ⟨toNat_regRead_ctrl s, BitVec.toNat_setWidth_of_le (by decide), BitVec.toNat_setWidth_of_le (by decide),
      BitVec.toNat_setWidth_of_le (by decide)⟩,
    fun b => ⟨BitVec.eq_of_toNat_eq ((toNat_regRead_ctrl (State.resetWith b)).trans rfl), rfl, rfl, rfl⟩⟩

/-! ## Configuration writes in mode SETUP (R261) -/

/-- A value in range replaces `THRESHOLD`, any other leaves it (R25, R54). -/
theorem Cfg.write_threshold (c : Cfg) (data : Word) :
    c.write 0x0B data = { c with threshold := if data.toNat ≤ 64 then BitVec.ofNat 7 data.toNat else c.threshold } := by
  rw [BitVec.ofNat_toNat]
  exact (apply_ite (fun v => { c with threshold := v }) (data.toNat ≤ 64) _ _).symm

/-- A value in range replaces `SPS`, any other leaves it (R26, R54). -/
theorem Cfg.write_sps (c : Cfg) (data : Word) :
    c.write 0x0C data =
      { c with sps := if 1 ≤ data.toNat ∧ data.toNat ≤ 255 then BitVec.ofNat 8 data.toNat else c.sps } := by
  rw [BitVec.ofNat_toNat]
  exact (apply_ite (fun v => { c with sps := v }) (1 ≤ data.toNat ∧ data.toNat ≤ 255) _ _).symm

/-- A value in range replaces `BPS`, any other leaves it (R26, R54). -/
theorem Cfg.write_bps (c : Cfg) (data : Word) :
    c.write 0x0D data =
      { c with bps := if 1 ≤ data.toNat ∧ data.toNat ≤ 8 then BitVec.ofNat 4 data.toNat else c.bps } := by
  rw [BitVec.ofNat_toNat]
  exact (apply_ite (fun v => { c with bps := v }) (1 ≤ data.toNat ∧ data.toNat ≤ 8) _ _).symm

/-- A character is appended to the access code while there are fewer than 65 (R23, R52). -/
theorem Cfg.write_acChar (c : Cfg) (data : Word) :
    c.write 0x06 data =
      { c with acChars := if c.acChars.length < 65 then c.acChars ++ [BitVec.ofNat 8 data.toNat] else c.acChars } := by
  rw [BitVec.ofNat_toNat]
  exact (apply_ite (fun v => { c with acChars := v }) (c.acChars.length < 65) _ _).symm

/-- In mode SETUP a write to an address that mode unlocks writes the configuration and nothing else (R261). -/
theorem exec_cfgWr_of_setup {s : State} {addr : Byte} {data : Word} (hl : lockedAddress addr = true) (hm : s.mode = .setup)
    (h : Presentable (.cfgWr addr data) s) :
    exec (.cfgWr addr data) s = .next { s with cfg := s.cfg.write addr data, env := s.env.done .done .none } := by
  rw [exec_cfgWr h, State.writeRegister, if_pos hl, State.accept_mode, if_pos hm]
  rfl

/-- Settles O23, register by register. -/
theorem configurationWriteInSetup : Obligations.ConfigurationWriteInSetup := by
  intro s data hm
  refine ⟨exec_cfgWr_of_setup rfl hm, fun h => ?_, fun h => ?_, fun h => ?_, fun h => ?_, exec_cfgWr_of_setup rfl hm⟩
  · rw [exec_cfgWr_of_setup rfl hm h, Cfg.write_threshold]
  · rw [exec_cfgWr_of_setup rfl hm h, Cfg.write_sps]
  · rw [exec_cfgWr_of_setup rfl hm h, Cfg.write_bps]
  · rw [exec_cfgWr_of_setup rfl hm h, Cfg.write_acChar]

/-! ## The START commit (R266) -/

/-- A valid string is committed, and the machine runs (R266). -/
theorem startCommit_valid {s : State} {code : Bits} (hv : validateAccessCode s.cfg.acChars = some code) :
    s.startCommit = (s.setCfg { s.cfg with
      ac := code, n := BitVec.ofNat 7 code.length, acv := accessCodeValue code,
      mask := accessCodeMask code.length }).setMode .run := by
  rw [State.startCommit, hv]

/-- An invalid string is a fault whose information word is the character count (R266, R281). -/
theorem startCommit_invalid {s : State} (hv : validateAccessCode s.cfg.acChars = none) :
    s.startCommit = (s.setFault (s.fault ||| 0x01)
      (if s.fault = 0 then BitVec.ofNat 32 (s.cfg.acChars.length % 16777216) else s.faultInfo)).setMode .failed := by
  rw [State.startCommit, hv]
  dsimp only
  rw [raiseFault_eq s .invalidAccessCode (BitVec.toNat_ofNat s.cfg.acChars.length 24), FaultNumber.bit, Nat.zero_mul,
    Nat.zero_add]
  rfl

/-- In mode SETUP a `START` write with bit 0 = 1 is the commit (R261). -/
theorem exec_cfgWr_start {s : State} {data : Word} (hm : s.mode = .setup) (hd : data.getLsbD 0 = true)
    (h : Presentable (.cfgWr 0x02 data) s) :
    exec (.cfgWr 0x02 data) s = .next (s.accept.startCommit.complete .done .none) := by
  rw [exec_cfgWr h, State.writeRegister, if_neg (by decide), if_pos ⟨rfl, hm, hd⟩]

/-- Settles O25: the commit's two cases, each completed with `Done`. -/
theorem startCommit : Obligations.StartCommit := by
  intro s data hm hd h
  rw [exec_cfgWr_start hm hd h]
  refine ⟨fun code hv => ?_, fun hv => ?_⟩
  · rw [startCommit_valid (s := s.accept) hv]
    rfl
  · rw [startCommit_invalid (s := s.accept) hv]
    rfl

/-! ## Reset (R262) -/

/-- Settles O26: reset is never refused for its operands or blocked, and its completion is the only one. -/
theorem resetRestoresTheResetState : Obligations.ResetRestoresTheResetState := by
  intro s h
  rw [exec_eq_effect h rfl rfl, effect, State.resetBlock]
  rfl

end Sys2Proof.Machine
end

section
/-!
The exceptions and the two halves (`60_exceptions.md`): that the transmit and the receive half share no mutable state, what changes the
mode and the configuration, the writes the configuration lock stops, and the raising of a fault.
-/

namespace Sys2Proof.Machine

/-! ## The operations of the two halves (R319) -/

/-- The operations of the transmit half: those of its agents. -/
abbrev IsTransmit (i : Instr) : Prop := issuerOf i = .appTx ∨ issuerOf i = .mod

/-- The operations of the receive half: those of its agents, and the closes of the host that act on it. -/
abbrev IsReceive (i : Instr) : Prop :=
  i ∈ [.qClose, .poolClose] ∨ issuerOf i = .demod ∨ issuerOf i = .appRx ∨ issuerOf i = .sync ∨ issuerOf i = .pipe

theorem issuerOf_poolAcq (r : ReqId) : issuerOf (.poolAcq r) = .appRx ∨ issuerOf (.poolAcq r) = .pipe := by
  by_cases hr : r = 0
  · exact .inr (if_pos hr)
  · exact .inl (if_neg hr)

theorem IsTransmit.cases {i : Instr} (h : IsTransmit i) :
    (∃ payload, i = .txMsg payload) ∨ i = .txCtrl ∨ i = .txClose ∨ ∃ cap, i = .txPull cap := by
  cases i
  case poolAcq r => obtain hr | hr := issuerOf_poolAcq r <;> simp [IsTransmit, hr] at h
  all_goals simp [IsTransmit, issuerOf] at h ⊢

/-- The operations of neither half are the host's own. -/
theorem half_cases (i : Instr) :
    IsTransmit i ∨ IsReceive i ∨ i = .nop ∨ (∃ addr data, i = .cfgWr addr data) ∨ (∃ addr, i = .cfgRd addr) ∨ i = .sysReset := by
  cases i
  case poolAcq r => obtain hr | hr := issuerOf_poolAcq r <;> simp [IsReceive, hr]
  all_goals simp [IsTransmit, IsReceive, issuerOf]

/-! ## The receive half beside any transmit half -/

/-- `s` with the transmit half, the fault registers and the working registers of `o`: all that is not the receive half's to read. -/
def State.besideTx (s o : State) : State := { s with fault := o.fault, faultInfo := o.faultInfo, tx := o.tx, work := o.work }

/-- `s` with the receive half and the environment of `t`. -/
def State.withRx (s t : State) : State := { s with sync := t.sync, queue := t.queue, pool := t.pool, pipe := t.pipe, env := t.env }

/-- Where a step of the receive half leads from `s` to `t`, from `s` beside the rest of `o` it leads to `t'`: the receive half and the
environment become what they are in `t`, and of the rest at most the fault registers change. -/
def FollowsRx (s o t t' : State) : Prop := ∃ f info, t' = ((s.besideTx o).setFault f info).withRx t

variable {s s' o t t' : State}

@[simp] theorem besideTx_sync (s o : State) : (s.besideTx o).sync = s.sync := rfl
@[simp] theorem besideTx_queue (s o : State) : (s.besideTx o).queue = s.queue := rfl
@[simp] theorem besideTx_pool (s o : State) : (s.besideTx o).pool = s.pool := rfl
@[simp] theorem besideTx_pipe (s o : State) : (s.besideTx o).pipe = s.pipe := rfl

theorem FollowsRx.of_eq (h : t' = (s.besideTx o).withRx t) : FollowsRx s o t t' := ⟨o.fault, o.faultInfo, h⟩

theorem FollowsRx.complete (h : FollowsRx s o t t') (c : Code) (r : Result) : FollowsRx s o (t.complete c r) (t'.complete c r) := by
  obtain ⟨f, info, rfl⟩ := h
  exact ⟨f, info, rfl⟩

theorem FollowsRx.setPipeState (h : FollowsRx s o t t') (p : PipeState) :
    FollowsRx s o (t.setPipe { t.pipe with state := p }) (t'.setPipe { t'.pipe with state := p }) := by
  obtain ⟨f, info, rfl⟩ := h
  exact ⟨f, info, rfl⟩

theorem tryEnqueue_followsRx (s o : State) : FollowsRx s o s.tryEnqueue (s.besideTx o).tryEnqueue := by
  refine .of_eq ?_
  unfold State.tryEnqueue
  rw [apply_ite (State.withRx _), apply_ite (State.withRx _)]
  rfl

theorem payloadBit_followsRx (s o : State) (b : Bool) : FollowsRx s o (s.payloadBit b) ((s.besideTx o).payloadBit b) := by
  by_cases h8 : s.sync.bcnt + 1 = 8
  · rw [payloadBit_last b h8, payloadBit_last (s := s.besideTx o) b h8]
    by_cases hfull : s.sync.cap.length + 1 = s.sync.need.toNat
    · rw [if_pos hfull, if_pos (by exact hfull)]
      exact tryEnqueue_followsRx (s.setSync _) o
    · rw [if_neg hfull, if_neg (by exact hfull)]
      exact .of_eq rfl
  · rw [payloadBit_inner b h8, payloadBit_inner (s := s.besideTx o) b h8]
    exact .of_eq rfl

theorem receiveBit_followsRx (s o : State) (b : Bool) : FollowsRx s o (s.receiveBit b) ((s.besideTx o).receiveBit b) := by
  unfold State.receiveBit
  cases hx : s.cfg.extSink with
  | true =>
    rw [if_pos rfl, if_pos (by exact hx)]
    exact .of_eq rfl
  | false =>
    rw [if_neg Bool.false_ne_true, if_neg (by exact Bool.eq_false_iff.1 hx)]
    rw [besideTx_sync]
    cases s.sync.state
    case payload => exact payloadBit_followsRx s o b
    all_goals exact .of_eq rfl

theorem fetchPacket_followsRx (s o : State) : FollowsRx s o s.fetchPacket (s.besideTx o).fetchPacket := by
  cases hq : s.queue.q with
  | nil =>
    rw [fetchPacket_of_nil hq, fetchPacket_of_nil (s := s.besideTx o) hq]
    exact .of_eq rfl
  | cons rp rest =>
    rw [fetchPacket_of_cons hq, fetchPacket_of_cons (s := s.besideTx o) hq]
    exact .of_eq rfl

theorem acquireExternal_followsRx (s o : State) (r : ReqId) :
    FollowsRx s o (s.acquireExternal r) ((s.besideTx o).acquireExternal r) := by
  unfold State.acquireExternal
  rw [besideTx_pool]
  split
  · exact .of_eq rfl
  · split <;> exact .of_eq rfl

theorem acquireNonBlocking_followsRx (s o : State) (r : ReqId) :
    FollowsRx s o (s.acquireNonBlocking r) ((s.besideTx o).acquireNonBlocking r) := by
  unfold State.acquireNonBlocking
  rw [besideTx_pool]
  split
  · exact .of_eq rfl
  · split <;> exact .of_eq rfl

/-- The waking of the waiters (R219). -/
theorem wakeAll_besideTx (ws : List ReqId) (s o : State) :
    State.wakeAll ws (s.besideTx o) = (s.besideTx o).withRx (State.wakeAll ws s) := by
  induction ws generalizing s with
  | nil => rfl
  | cons r rs ih =>
    by_cases hr : r = 0
    · rw [State.wakeAll, State.wakeAll, if_pos hr, if_pos hr]
      exact ih (s.setPipe { s.pipe with state := .stopped, stop := .poolClosed })
    · rw [State.wakeAll, State.wakeAll, if_neg hr, if_neg hr]
      exact ih (s.completeFor r .poolClosed (.index 0))

/-- A release with the grant it makes (R222). -/
theorem releaseTo_followsRx {idx : Index} {ws : List ReqId} (o : State) (h : State.releaseTo idx ws s = some t) :
    ∃ t', State.releaseTo idx ws (s.besideTx o) = some t' ∧ FollowsRx s o t t' := by
  induction ws generalizing s o t with
  | nil =>
    rw [releaseTo_nil] at h
    cases h
    exact ⟨_, releaseTo_nil idx _, .of_eq rfl⟩
  | cons r rs ih =>
    by_cases hr : r = 0
    · subst hr
      cases hres : s.pipe.res with
      | fail f => simp [State.releaseTo, hres] at h
      | ok p =>
        by_cases hl : s.build.blobCap < p.length
        · rw [releaseTo_pipe_tooLarge idx rs s p hres hl, Option.map_eq_some_iff] at h
          obtain ⟨u, hu, rfl⟩ := h
          obtain ⟨u', hu', hfollows⟩ := ih (o.raiseFault .payloadTooLarge (BitVec.ofNat 24 p.length)) hu
          refine ⟨u'.setPipe { u'.pipe with state := .waitPacket }, ?_, FollowsRx.setPipeState hfollows _⟩
          rw [releaseTo_pipe_tooLarge idx rs (s.besideTx o) p hres hl]
          exact congrArg (Option.map _) hu'
        · rw [releaseTo_pipe_fits idx rs s p hres (Nat.not_lt.1 hl)] at h
          cases h
          exact ⟨_, releaseTo_pipe_fits idx rs (s.besideTx o) p hres (Nat.not_lt.1 hl), .of_eq rfl⟩
    · rw [releaseTo_external idx r rs s hr] at h
      cases h
      exact ⟨_, releaseTo_external idx r rs _ hr, .of_eq rfl⟩

/-- The grant of a Blob to the pipeline (R220). -/
theorem grantPipe_followsRx {idx : Index} {p : List Byte} (o : State) (h : s.grantPipe idx p = some t) :
    ∃ t', (s.besideTx o).grantPipe idx p = some t' ∧ FollowsRx s o t t' := by
  by_cases hl : s.build.blobCap < p.length
  · rw [State.grantPipe, if_pos hl, Option.map_eq_some_iff] at h
    obtain ⟨u, hu, rfl⟩ := h
    obtain ⟨u', hu', hfollows⟩ := releaseTo_followsRx (o.raiseFault .payloadTooLarge (BitVec.ofNat 24 p.length)) hu
    refine ⟨u'.setPipe { u'.pipe with state := .waitPacket }, ?_, FollowsRx.setPipeState hfollows _⟩
    rw [State.grantPipe, if_pos (by exact hl)]
    exact congrArg (Option.map _) hu'
  · rw [grantPipe_fits idx (Nat.not_lt.1 hl)] at h
    cases h
    exact ⟨_, grantPipe_fits (s := s.besideTx o) idx (Nat.not_lt.1 hl), .of_eq rfl⟩

/-- The pipeline's acquire (R242). -/
theorem pipeAcquireBlob_followsRx {p : List Byte} (o : State) (h : s.pipeAcquireBlob p = some t) :
    ∃ t', (s.besideTx o).pipeAcquireBlob p = some t' ∧ FollowsRx s o t t' := by
  cases hc : s.pool.closed with
  | true =>
    rw [pipeAcquireBlob_closed p hc] at h
    cases h
    exact ⟨_, pipeAcquireBlob_closed (s := s.besideTx o) p hc, .of_eq rfl⟩
  | false =>
    cases hf : s.pool.free with
    | nil =>
      rw [pipeAcquireBlob_empty p hc hf] at h
      cases h
      exact ⟨_, pipeAcquireBlob_empty (s := s.besideTx o) p hc hf, .of_eq rfl⟩
    | cons idx rest =>
      rw [pipeAcquireBlob_free s p idx rest hc hf] at h
      rw [pipeAcquireBlob_free (s.besideTx o) p idx rest hc hf]
      exact grantPipe_followsRx o h

/-- An operation that needed a grant completes as it did. -/
theorem granted_followsRx {g g' : Option State} {c : Code} {r : Result}
    (hg : ∀ u, g = some u → ∃ u', g' = some u' ∧ FollowsRx s o u u') (h : granted g (fun t => t.complete c r) = .next t) :
    ∃ t', granted g' (fun t => t.complete c r) = .next t' ∧ FollowsRx s o t t' := by
  obtain ⟨u, hu, rfl⟩ := granted_next h
  obtain ⟨u', rfl, hfollows⟩ := hg u hu
  exact ⟨_, rfl, hfollows.complete c r⟩

theorem effect_pipeAcquire_followsRx (o : State) (h : effect .pipeAcquire s = .next t) :
    ∃ t', effect .pipeAcquire (s.besideTx o) = .next t' ∧ FollowsRx s o t t' := by
  cases hres : s.pipe.res with
  | fail f =>
    rw [effect, hres] at h
    cases h
  | ok p =>
    have hres' : (s.besideTx o).pipe.res = .ok p := hres
    rw [effect, hres] at h
    rw [effect, hres']
    exact granted_followsRx (fun _ => pipeAcquireBlob_followsRx o) h

/-- `POOL.ACQ` is the pipeline's acquire for requester 0 and an external one for any other (R216). -/
theorem effect_poolAcq_followsRx {r : ReqId} (o : State) (h : effect (.poolAcq r) s = .next t) :
    ∃ t', effect (.poolAcq r) (s.besideTx o) = .next t' ∧ FollowsRx s o t t' := by
  by_cases hr : r = 0
  · subst hr
    exact effect_pipeAcquire_followsRx o h
  · rw [effect, if_neg hr] at h
    cases h
    exact ⟨_, if_neg hr, acquireExternal_followsRx s o r⟩

theorem effect_poolRel_followsRx {idx : Index} (o : State) (h : effect (.poolRel idx) s = .next t) :
    ∃ t', effect (.poolRel idx) (s.besideTx o) = .next t' ∧ FollowsRx s o t t' := by
  by_cases hN : s.build.poolSize ≤ idx.toNat
  · rw [effect_poolRel_of_badIndex hN] at h
    cases h
    exact ⟨_, effect_poolRel_of_badIndex (s := s.besideTx o) hN, ⟨_, _, rfl⟩⟩
  · cases hu : s.pool.inUse idx with
    | false =>
      rw [effect_poolRel_of_free (Nat.not_le.1 hN) hu] at h
      cases h
      exact ⟨_, effect_poolRel_of_free (s := s.besideTx o) (Nat.not_le.1 hN) hu, ⟨_, _, rfl⟩⟩
    | true =>
      rw [effect_poolRel_of_inUse (Nat.not_le.1 hN) hu] at h
      rw [effect_poolRel_of_inUse (s := s.besideTx o) (Nat.not_le.1 hN) hu]
      exact granted_followsRx (fun _ => releaseTo_followsRx o) h

/-- An enabled operation of the receive half neither reads what is not its half's nor changes any of it but the fault registers (R319). -/
theorem effect_followsRx {i : Instr} (hi : IsReceive i) (o : State) (h : effect i s = .next t) :
    ∃ t', effect i (s.besideTx o) = .next t' ∧ FollowsRx s o t t' := by
  cases i
  case nop | cfgWr | cfgRd | sysReset | txMsg | txCtrl | txClose | txPull => simp [IsReceive, issuerOf] at hi
  case poolAcq r => exact effect_poolAcq_followsRx o h
  case poolRel idx => exact effect_poolRel_followsRx o h
  case pipeAcquire => exact effect_pipeAcquire_followsRx o h
  all_goals
    obtain rfl := Host.Outcome.next.inj h
    refine ⟨_, rfl, ?_⟩
  case rxBit b => exact (receiveBit_followsRx s o b).complete _ _
  case syncPush => exact (tryEnqueue_followsRx s o).complete _ _
  case pipeFetch => exact (fetchPacket_followsRx s o).complete _ _
  case poolAcqnb r => exact acquireNonBlocking_followsRx s o r
  case qDeq =>
    rw [besideTx_queue]
    split <;> exact (fetchPacket_followsRx s o).complete _ _
  case poolClose =>
    refine FollowsRx.complete (.of_eq ?_) _ _
    exact wakeAll_besideTx _ (s.setPool _) o
  case qEnq | blobRd | blobLen =>
    refine .of_eq ?_
    rw [apply_ite (State.withRx _)]
    rfl
  case rxTake =>
    rw [besideTx_pipe]
    split
    · exact .of_eq rfl
    · split <;> exact .of_eq rfl
  case qClose | pipeEmit => exact .of_eq rfl

/-! ## The transmit half beside any receive half -/

/-- `s` with the receive half, the fault registers and the working registers of `o`: all that is not the transmit half's to read. -/
def State.besideRx (s o : State) : State :=
  { s with fault := o.fault, faultInfo := o.faultInfo, sync := o.sync, queue := o.queue, pool := o.pool, pipe := o.pipe, work := o.work }

/-- `s` with the transmit half and the environment of `t`. -/
def State.withTx (s t : State) : State := { s with tx := t.tx, env := t.env }

theorem offer_besideRx (s o : State) (item : SrcItem) : (s.besideRx o).offer item = (s.besideRx o).withTx (s.offer item) := by
  unfold State.offer
  rw [apply_ite (State.withTx _)]
  rfl

theorem pull_besideRx (s o : State) (cap : BitVec 24) : (s.besideRx o).pull cap = (s.besideRx o).withTx (s.pull cap) := by
  cases hc : s.tx.encClosed with
  | true =>
    rw [pull_closed cap hc, pull_closed (s := s.besideRx o) cap hc]
    rfl
  | false =>
    by_cases hr : s.tx.resid = []
    · cases hq : takePayload s.tx.srcQ with
      | some next =>
        rw [pull_framing cap hc hr hq, pull_framing (s := s.besideRx o) cap hc hr hq]
        rfl
      | none =>
        rw [pull_ending cap hc hr hq, pull_ending (s := s.besideRx o) cap hc hr hq]
        rfl
    · rw [pull_draining cap hc hr, pull_draining (s := s.besideRx o) cap hc hr]
      rfl

/-- An enabled operation of the transmit half neither reads nor changes what is not its half's (R319). -/
theorem effect_besideRx {i : Instr} (hi : IsTransmit i) (o : State) (h : effect i s = .next t) :
    effect i (s.besideRx o) = .next ((s.besideRx o).withTx t) := by
  obtain ⟨payload, rfl⟩ | rfl | rfl | ⟨cap, rfl⟩ := hi.cases
  all_goals obtain rfl := Host.Outcome.next.inj h
  · exact congrArg Host.Outcome.next (offer_besideRx s o _)
  · exact congrArg Host.Outcome.next (offer_besideRx s o _)
  · rfl
  · exact congrArg Host.Outcome.next (pull_besideRx s o cap)

/-! ## Noninterference -/

/-- Two states that refuse and enable an operation alike: it blocks in both, or its effect answers in both. -/
theorem exec_alike {i : Instr} (hr : s'.refusal i = s.refusal i) (he : s'.enabled i = s.enabled i) (h : exec i s = .next t) :
    (effect i s.accept = .next t ∧ exec i s' = effect i s'.accept) ∨ (t = s.hold i ∧ exec i s' = .next (s'.hold i)) := by
  rw [exec_eq_attempt] at h ⊢
  obtain ⟨hnone, ⟨htrue, heff⟩ | ⟨hfalse, hhold⟩⟩ := attempt_next h
  · exact .inl ⟨heff, attempt_enabled (hr.trans hnone) (he.trans htrue)⟩
  · exact .inr ⟨hhold, attempt_blocked (hr.trans hnone) (he.trans hfalse)⟩

theorem refusal_besideTx (s o : State) (i : Instr) : (s.besideTx o).refusal i = s.refusal i := rfl

theorem enabled_besideTx {i : Instr} (hi : IsReceive i) (s o : State) : (s.besideTx o).enabled i = s.enabled i := by
  cases i
  case txPull => simp [IsReceive, issuerOf] at hi
  all_goals rfl

theorem refusal_besideRx {i : Instr} (hi : IsTransmit i) (s o : State) : (s.besideRx o).refusal i = s.refusal i := by
  obtain ⟨payload, rfl⟩ | rfl | rfl | ⟨cap, rfl⟩ := hi.cases <;> rfl

theorem enabled_besideRx {i : Instr} (hi : IsTransmit i) (s o : State) : (s.besideRx o).enabled i = s.enabled i := by
  obtain ⟨payload, rfl⟩ | rfl | rfl | ⟨cap, rfl⟩ := hi.cases <;> rfl

/-- An operation of the receive half, attempted beside any transmit half. -/
theorem exec_followsRx {i : Instr} (hi : IsReceive i) (o : State) (h : exec i s = .next t) :
    ∃ t', exec i (s.besideTx o) = .next t' ∧ FollowsRx s o t t' := by
  obtain ⟨heff, hexec⟩ | ⟨rfl, hexec⟩ := exec_alike (refusal_besideTx s o i) (enabled_besideTx hi s o) h
  · rw [hexec]
    exact effect_followsRx (s := s.accept) hi o heff
  · exact ⟨_, hexec, .of_eq rfl⟩

/-- An operation of the transmit half, attempted beside any receive half. -/
theorem exec_besideRx {i : Instr} (hi : IsTransmit i) (o : State) (h : exec i s = .next t) :
    exec i (s.besideRx o) = .next ((s.besideRx o).withTx t) := by
  obtain ⟨heff, hexec⟩ | ⟨rfl, hexec⟩ := exec_alike (refusal_besideRx hi s o) (enabled_besideRx hi s o) h
  · rw [hexec]
    exact effect_besideRx (s := s.accept) hi o heff
  · exact hexec

/-- Beside its own rest a state is itself, so the receive half's operations leave that rest but for the fault registers. -/
theorem exec_receive_frame {i : Instr} (hi : IsReceive i) (h : exec i s = .next t) : ∃ f info, t = (s.setFault f info).withRx t := by
  obtain ⟨t', hexec, hfollows⟩ := exec_followsRx hi s h
  obtain rfl : t = t' := Host.Outcome.next.inj (h.symm.trans hexec)
  exact hfollows

/-- The transmit half's operations leave everything else. -/
theorem exec_transmit_frame {i : Instr} (hi : IsTransmit i) (h : exec i s = .next t) : t = s.withTx t :=
  Host.Outcome.next.inj (h.symm.trans (exec_besideRx hi s h))

/-- Settles O55: each half's operations commute with the replacing of all that is not their half's. -/
theorem halvesAreIndependent : Obligations.HalvesAreIndependent := by
  refine ⟨fun s t i hi h => ?_, fun s t i hi h => ?_, fun s s' t i hi hb hm hc he hx h => ?_,
    fun s s' t i hi hb hm hc he hy hq hp hpi h => ?_⟩
  · rw [exec_transmit_frame hi h]
    exact ⟨rfl, rfl, rfl, rfl, rfl, rfl⟩
  · obtain ⟨f, info, hframe⟩ := exec_receive_frame hi h
    rw [hframe]
    rfl
  · have hs' : s' = s.besideRx s' := by rw [State.besideRx, ← hb, ← hm, ← hc, ← he, ← hx]
    rw [hs']
    exact ⟨_, exec_besideRx hi s' h, rfl, rfl⟩
  · have hs' : s' = s.besideTx s' := by rw [State.besideTx, ← hb, ← hm, ← hc, ← he, ← hy, ← hq, ← hp, ← hpi]
    obtain ⟨t', hexec, f, info, rfl⟩ := exec_followsRx hi s' h
    rw [hs']
    exact ⟨_, hexec, rfl, rfl, rfl, rfl, rfl⟩

/-! ## Raising a fault (R290, R291) -/

/-- The bit of a fault number, in the fault register. -/
theorem getLsbD_faultBit (F : FaultNumber) {k : Nat} (hk : k < 5) :
    (BitVec.ofNat 5 (2 ^ F.bit)).getLsbD k = decide (k = F.bit) := by
  rw [BitVec.getLsbD_ofNat, decide_eq_true hk, Bool.true_and, Nat.testBit_two_pow]
  exact decide_eq_decide.2 eq_comm

/-- `fault_o` is the OR of the fault bits (R291). -/
theorem faultO_iff (s : State) : s.faultO = true ↔ s.fault ≠ 0 := by
  unfold State.faultO
  generalize s.fault = f
  revert f
  decide

/-- Settles O28. -/
theorem raiseFaultCapturesTheFirst : Obligations.RaiseFaultCapturesTheFirst := by
  refine ⟨faultO_iff, fun s F info => ⟨?_, fun k hk => ?_⟩⟩
  · rw [raiseFault_eq s F rfl, Nat.mul_comm]
    rfl
  · rw [State.raiseFault_fault, BitVec.getLsbD_or, getLsbD_faultBit F hk]

/-! ## The configuration lock (R264, R285) -/

/-- The addresses mode SETUP unlocks, as a list (R261). -/
theorem lockedAddress_iff (addr : Byte) :
    lockedAddress addr = true ↔ addr ∈ ([0x01, 0x0B, 0x0C, 0x0D, 0x06, 0x07] : List Byte) := by
  simp [lockedAddress, or_assoc]

/-- Outside mode SETUP a write to an address that mode unlocks is a fault (R264). -/
theorem writeRegister_locked {s : State} {addr : Byte} (data : Word) (hl : lockedAddress addr = true) (hm : s.mode ≠ .setup) :
    s.writeRegister addr data = (s.raiseFault .cfgLocked (addr.setWidth 24)).complete .defect .none := by
  rw [State.writeRegister, if_pos hl, if_neg hm]

/-- Settles O24: the locked addresses, and the writes that are neither to one of them nor a commit. -/
theorem lockedAndIgnoredWrites : Obligations.LockedAndIgnoredWrites := by
  refine ⟨fun s addr data ha hm h => ?_, fun s addr data ha hs h => ?_⟩
  · have hinfo : (addr.setWidth 24).toNat = addr.toNat := BitVec.toNat_setWidth_of_le (by decide)
    rw [exec_cfgWr h, writeRegister_locked (s := s.accept) data ((lockedAddress_iff addr).2 ha) hm, raiseFault_eq _ _ hinfo]
    rfl
  · have hl : lockedAddress addr = false := Bool.eq_false_iff.2 (mt (lockedAddress_iff addr).1 ha)
    have hcommit : ¬(addr = 0x02 ∧ s.mode = .setup ∧ data.getLsbD 0 = true) := by
      rintro ⟨haddr, hmode, hbit⟩
      exact (hs haddr).elim (Bool.eq_false_iff.1 · hbit) (· hmode)
    rw [Answers, exec_cfgWr h, writeRegister_ignored (s := s.accept) hl hcommit, accept_complete]

/-! ## The mode and the configuration (R20, R82, R264, R317) -/

/-- From `s` to `t` the operation `i`, not reset, keeps the build parameters, and either keeps the mode, and outside mode SETUP the
configuration, or is the commit (R266). -/
structure KeepsConfiguration (i : Instr) (s t : State) : Prop where
  build : t.build = s.build := by rfl
  step : (t.mode = s.mode ∧ (s.mode ≠ .setup → t.cfg = s.cfg)) ∨
    ((∃ data, i = .cfgWr 0x02 data ∧ data.getLsbD 0 = true) ∧ s.mode = .setup ∧
      t.mode = if (validateAccessCode s.cfg.acChars).isSome then .run else .failed) := by exact .inl ⟨rfl, fun _ => rfl⟩

/-- The commit leads to RUN with a valid access code and to FAILED with another (R266). -/
theorem startCommit_mode (s : State) :
    s.startCommit.mode = if (validateAccessCode s.cfg.acChars).isSome then .run else .failed := by
  obtain ⟨code, hv, hc⟩ | ⟨hv, hc⟩ := startCommit_cases s
  · rw [hc, hv]
    rfl
  · rw [hc, hv]
    rfl

theorem startCommit_build (s : State) : s.startCommit.build = s.build := by
  obtain ⟨code, -, hc⟩ | ⟨-, hc⟩ := startCommit_cases s
  all_goals
    rw [hc]
    rfl

theorem writeRegister_keepsConfiguration (s : State) (addr : Byte) (data : Word) :
    KeepsConfiguration (.cfgWr addr data) s (s.writeRegister addr data) := by
  unfold State.writeRegister
  split
  · split
    next hm => exact { step := .inl ⟨rfl, fun hne => absurd hm hne⟩ }
    next => exact {}
  · split
    next hs =>
      obtain ⟨rfl, hm, hbit⟩ := hs
      exact { build := startCommit_build s, step := .inr ⟨⟨data, rfl, hbit⟩, hm, startCommit_mode s⟩ }
    next => exact {}

/-- Each half's operations keep them all, by what they leave alone; of the host's own operations only a register write does not. -/
theorem exec_keepsConfiguration {i : Instr} (hi : i ≠ .sysReset) (h : exec i s = .next t) : KeepsConfiguration i s t := by
  obtain htx | hrx | hhost := half_cases i
  · rw [exec_transmit_frame htx h]
    exact {}
  · obtain ⟨f, info, hframe⟩ := exec_receive_frame hrx h
    rw [hframe]
    exact {}
  · obtain ⟨-, -, ⟨-, heff⟩ | ⟨-, rfl⟩⟩ := exec_next h
    · obtain rfl | ⟨addr, data, rfl⟩ | ⟨addr, rfl⟩ | rfl := hhost
      · cases heff
        exact {}
      · cases heff
        obtain ⟨hbuild, hstep⟩ := writeRegister_keepsConfiguration s.accept addr data
        exact ⟨hbuild, hstep⟩
      · cases heff
        exact {}
      · exact absurd rfl hi
    · exact {}

/-- Settles O53: reset keeps the build parameters too. -/
theorem modeAndConfigurationAreFrozen : Obligations.ModeAndConfigurationAreFrozen := by
  refine ⟨fun s t i hi h => ?_, fun s t i h => ?_⟩
  · obtain ⟨-, ⟨hmode, -⟩ | ⟨hcommit, hsetup, hmode⟩⟩ := exec_keepsConfiguration hi h
    · exact ⟨fun _ => hmode, fun hne => absurd hmode hne⟩
    · exact ⟨fun hne => absurd hsetup hne, fun _ => ⟨hcommit, hsetup, hmode⟩⟩
  · by_cases hi : i = .sysReset
    · subst hi
      obtain ⟨-, -, ⟨-, heff⟩ | ⟨-, rfl⟩⟩ := exec_next h
      · cases heff
        exact ⟨rfl, fun hne => absurd rfl hne⟩
      · exact ⟨rfl, fun _ _ => rfl⟩
    · obtain ⟨hbuild, ⟨-, hcfg⟩ | ⟨-, hsetup, -⟩⟩ := exec_keepsConfiguration hi h
      · exact ⟨hbuild, fun _ => hcfg⟩
      · exact ⟨hbuild, fun _ hne => absurd hsetup hne⟩

end Sys2Proof.Machine
end
